-- ==== Sys2Proof/Word.lean ====
section
/-! DEFINITION. The word types: the 64-bit lane every port and register is held in, and the eight-slot
register file shared by the hash state and the working variables. -/

namespace Sys2Proof

/-- A byte of a message or of a padding suffix. -/
abbrev Byte := BitVec 8

/-- A 64-bit lane: the width of `ARG` and `RSP_DATA` (R55, R70). A word of a narrower width `w` stands in
bits `w-1 .. 0` of its lane. -/
abbrev Word := BitVec 64

/-- Eight word slots (R6): `H[0..7]` of R22, or `WV[0..7]` of R24 under its names `a..h`. -/
structure Words8 (w : Nat) where
  a : BitVec w
  b : BitVec w
  c : BitVec w
  d : BitVec w
  e : BitVec w
  f : BitVec w
  g : BitVec w
  h : BitVec w
  deriving DecidableEq, Repr

/-- The message words, most recently appended last (R21, R51). It is the only indexed store of the engine. -/
abbrev Memory := List Word

end Sys2Proof
end

