-- ==== Sys2Proof/Config.lean ====
section
/-! DEFINITION. What an instance fixes when it is built (R1 to R3), and the free values: the constants that
stand where the spec gives no value, with no body, so that nothing can be proved about what they are. -/

namespace Sys2Proof

/-- The seven variants of R2, in the order of their identifiers 0 to 6. -/
inductive Variant where
  | sha1
  | sha224
  | sha256
  | sha384
  | sha512
  | sha512t224
  | sha512t256
  deriving DecidableEq, Repr

namespace Config

/-- What a read of a word slot that holds no value gives (R301: such slots are "absent, not zero"). Log
entry 3. -/
opaque absentWord : Nat → Word

/-- The variant of `State.reset`. DESIGN CHOICE, log entry 4: R1 leaves it to the build. -/
def resetVariant : Variant := .sha256

/-- The buffer capacity of `State.reset`. DESIGN CHOICE, log entry 4: R3 leaves it `OPEN`. -/
def resetBufCap : Nat := 64

/-- The capacities an instance may be built with (R3). -/
def bufCapLegal (cap : Nat) : Bool :=
  decide (16 ≤ cap) && decide (cap ≤ 2 ^ 32 - 16) && decide (cap % 16 = 0)

end Config
end Sys2Proof
end

