-- ==== Sys2Proof/Syntax.lean ====
section
/-! DEFINITION. The syntax: one constructor for each row of spec/opcode_table.json, and the words of the two
ports (the host's command port, R70, and the backend's request port, R77) that instructions are read from. -/

namespace Sys2Proof

/-- The width select of a backend request (R78). `reserved` is `WSEL = 11`. -/
inductive WSel where
  | w8
  | w32
  | w64
  | reserved
  deriving DecidableEq, Repr

/-- The eight host commands (R72) and the seventeen backend operations (R79). -/
inductive Instr where
  /-- `MSG_IN v` (R180). -/
  | msgIn (v : Word)
  /-- `MSG_CLEAR` (R182). -/
  | msgClear
  /-- `HASH` (R183). -/
  | hash
  /-- `DIGEST_RD i` (R189). -/
  | digestRd (i : BitVec 8)
  /-- `STATUS_RD` (R191). -/
  | statusRd
  /-- `PAD_NEEDED L` (R166). -/
  | padNeeded (l : Word)
  /-- `PAD_LEN L` (R163). -/
  | padLen (l : Word)
  /-- `PAD_BYTE i, L` (R164). -/
  | padByte (i : BitVec 8) (l : Word)
  /-- `AND` (R101). -/
  | and (ws : WSel) (a b : Word)
  /-- `OR` (R102). -/
  | or (ws : WSel) (a b : Word)
  /-- `XOR` (R103). -/
  | xor (ws : WSel) (a b : Word)
  /-- `NOT` (R104). -/
  | not (ws : WSel) (a : Word)
  /-- `ADD` (R105). -/
  | add (ws : WSel) (a b : Word)
  /-- `MUL` (R106). -/
  | mul (ws : WSel) (a b : Word)
  /-- `SHL` (R107). -/
  | shl (ws : WSel) (a : Word) (n : BitVec 7)
  /-- `SHR` (R108). -/
  | shr (ws : WSel) (a : Word) (n : BitVec 7)
  /-- `ROTL` (R109). -/
  | rotl (ws : WSel) (a : Word) (n : BitVec 7)
  /-- `ROTR` (R110). -/
  | rotr (ws : WSel) (a : Word) (n : BitVec 7)
  /-- `CONST` (R111). -/
  | const (ws : WSel) (lit : Word)
  /-- `TESTBIT` (R112). -/
  | testbit (ws : WSel) (a : Word) (n : BitVec 7)
  /-- `SELECT` (R113). -/
  | select (ws : WSel) (c : Bool) (a b : Word)
  /-- `BAND` (R114); `WSEL` is not read. -/
  | band (a b : Bool)
  /-- `BOR` (R115); `WSEL` is not read. -/
  | bor (a b : Bool)
  /-- `BNOT` (R116); `WSEL` is not read. -/
  | bnot (a : Bool)
  /-- `LOOKUP` (R117). -/
  | lookup (ws : WSel) (tsel : Bool) (n : BitVec 7)
  deriving DecidableEq, Repr

/-- The operand lanes of a backend request (R77, R80). Log entry 10: `N` has seven bits. -/
structure ReqOperands where
  a : Word
  b : Word
  c : Bool
  n : BitVec 7
  lit : Word
  tsel : Bool
  deriving DecidableEq, Repr

/-- What is issued on a port: a host command `(CMD, ARG)` (R70) or a backend request `BREQ` with its operand
lanes (R77). -/
inductive PortWord where
  | command (cmd : BitVec 16) (arg : Word)
  | request (breq : BitVec 7) (ops : ReqOperands)
  deriving DecidableEq, Repr

/-- What reaches the engine from outside, in order: a port word, or the platform's reset input (R300), which
may arrive while the port word `inFlight` executes. -/
inductive PortEvent where
  | transaction (p : PortWord)
  | reset (inFlight : Option PortWord)
  deriving DecidableEq, Repr

/-- Why a port word is no instruction. -/
inductive Reject where
  /-- `OPC` selects no row of R72 (R75). -/
  | illegalOpcode
  /-- `IMM8` is not 0 for an opcode that takes no immediate (R73). -/
  | immediateNotZero
  /-- `BOP` selects no row of R79. -/
  | reservedBop
  deriving DecidableEq, Repr

end Sys2Proof
end

