-- ==== Sys2Proof/Machine/Width.lean ====
section
/-! DEFINITION. Widths: the encoding of `WSEL` (R78), and the lane form of a word of width `w`. -/

namespace Sys2Proof

/-- The operand width a request selects (R78); `WSEL = 11` selects none. -/
def WSel.width? : WSel → Option Nat
  | .w8 => some 8
  | .w32 => some 32
  | .w64 => some 64
  | .reserved => none

/-- The two bits of `WSEL` (R78). -/
def WSel.bits : WSel → BitVec 2
  | .w8 => 0b00#2
  | .w32 => 0b01#2
  | .w64 => 0b10#2
  | .reserved => 0b11#2

/-- The width select with the given bits (R78). -/
def WSel.ofBits (b : BitVec 2) : WSel :=
  if b = 0b00#2 then .w8
  else if b = 0b01#2 then .w32
  else if b = 0b10#2 then .w64
  else .reserved

/-- The word of width `w` on a lane: its bits `w-1 .. 0`. Log entry 9. -/
def Word.take (w : Nat) (x : Word) : BitVec w := x.setWidth w

/-- A word of width `w` on a lane, zero-extended (R55). -/
def lane {w : Nat} (x : BitVec w) : Word := x.setWidth 64

/-- A 1-bit value on a lane. -/
def boolLane (b : Bool) : Word := lane (BitVec.ofBool b)

/-- The lane holds a word of width `w`: no bit at or above `w` is set. -/
def Word.fits (w : Nat) (x : Word) : Bool := decide (x.toNat < 2 ^ w)

end Sys2Proof
end

