-- ==== Sys2Proof/WellFormed.lean ====
section
/-! DEFINITION. Well-formed instructions: the "valid inputs" of the backend contract (R100). Every host
command is well formed; what a command faults on depends on the state, and is in its meaning. -/

namespace Sys2Proof

/-- The request selects a width, and the word operand is a word of that width (R77, R78). -/
def WSel.admits (ws : WSel) (a : Word) : Bool :=
  match ws.width? with
  | some w => Word.fits w a
  | none => false

/-- The request selects a width, and the amount or bit index is below it (R100). -/
def WSel.admitsAmount (ws : WSel) (n : BitVec 7) : Bool :=
  match ws.width? with
  | some w => decide (n.toNat < w)
  | none => false

/-- An instruction with valid inputs (R100): a legal `WSEL` (R78), word operands and literals of the selected
width (R77, R111), an amount below the width (R107 to R110, R112), and for `LOOKUP` a width some instance has
and an index of at most 79 (R79). -/
def WellFormed : Instr → Bool
  | .msgIn _ => true
  | .msgClear => true
  | .hash => true
  | .digestRd _ => true
  | .statusRd => true
  | .padNeeded _ => true
  | .padLen _ => true
  | .padByte _ _ => true
  | .and ws a b => ws.admits a && ws.admits b
  | .or ws a b => ws.admits a && ws.admits b
  | .xor ws a b => ws.admits a && ws.admits b
  | .not ws a => ws.admits a
  | .add ws a b => ws.admits a && ws.admits b
  | .mul ws a b => ws.admits a && ws.admits b
  | .shl ws a n => ws.admits a && ws.admitsAmount n
  | .shr ws a n => ws.admits a && ws.admitsAmount n
  | .rotl ws a n => ws.admits a && ws.admitsAmount n
  | .rotr ws a n => ws.admits a && ws.admitsAmount n
  | .const ws lit => ws.admits lit
  | .testbit ws a n => ws.admits a && ws.admitsAmount n
  | .select ws _ a b => ws.admits a && ws.admits b
  | .band _ _ => true
  | .bor _ _ => true
  | .bnot _ => true
  | .lookup ws _ n => (decide (ws = .w32) || decide (ws = .w64)) && decide (n.toNat < 80)

end Sys2Proof
end

