-- ==== Sys2Proof/Decode.lean ====
section
/-! DEFINITION. Decoding and encoding: total on every port word, rejecting by name, written from the field
and opcode tables of 30_encoding.md (R71 to R80). After them the opcode table itself, as rows. -/

namespace Sys2Proof

/-- `CMD[7:0]` (R71). -/
def opcOf (cmd : BitVec 16) : BitVec 8 := cmd.extractLsb' 0 8

/-- `CMD[15:8]` (R71). -/
def imm8Of (cmd : BitVec 16) : BitVec 8 := cmd.extractLsb' 8 8

/-- `BREQ[4:0]` (R78). -/
def bopOf (breq : BitVec 7) : BitVec 5 := breq.extractLsb' 0 5

/-- `BREQ[6:5]` (R78). -/
def wselOf (breq : BitVec 7) : WSel := WSel.ofBits (breq.extractLsb' 5 2)

/-- The 1-bit operand on a lane (R114 to R116). -/
def bitOf (x : Word) : Bool := x.getLsbD 0

/-- An opcode that takes no immediate: `IMM8` must be 0 (R73). -/
def noImm (imm : BitVec 8) (i : Instr) : Except Reject Instr :=
  if imm = 0#8 then .ok i else .error .immediateNotZero

/-- A host command word (R72, R73, R75, R76). `ARG` is dropped where it is ignored (R74). -/
def decodeCommand (cmd : BitVec 16) (arg : Word) : Except Reject Instr :=
  let opc := opcOf cmd
  let imm := imm8Of cmd
  if opc = 0x01#8 then noImm imm (.msgIn arg)
  else if opc = 0x02#8 then noImm imm .msgClear
  else if opc = 0x03#8 then noImm imm .hash
  else if opc = 0x04#8 then .ok (.digestRd imm)
  else if opc = 0x05#8 then noImm imm .statusRd
  else if opc = 0x10#8 then noImm imm (.padNeeded arg)
  else if opc = 0x11#8 then noImm imm (.padLen arg)
  else if opc = 0x12#8 then .ok (.padByte imm arg)
  else .error .illegalOpcode

/-- A backend request word (R78, R79). Operands that a row does not list are not read. -/
def decodeRequest (breq : BitVec 7) (o : ReqOperands) : Except Reject Instr :=
  let bop := bopOf breq
  let ws := wselOf breq
  if bop = 0x00#5 then .ok (.and ws o.a o.b)
  else if bop = 0x01#5 then .ok (.or ws o.a o.b)
  else if bop = 0x02#5 then .ok (.xor ws o.a o.b)
  else if bop = 0x03#5 then .ok (.not ws o.a)
  else if bop = 0x04#5 then .ok (.add ws o.a o.b)
  else if bop = 0x05#5 then .ok (.mul ws o.a o.b)
  else if bop = 0x06#5 then .ok (.shl ws o.a o.n)
  else if bop = 0x07#5 then .ok (.shr ws o.a o.n)
  else if bop = 0x08#5 then .ok (.rotl ws o.a o.n)
  else if bop = 0x09#5 then .ok (.rotr ws o.a o.n)
  else if bop = 0x0A#5 then .ok (.const ws o.lit)
  else if bop = 0x0B#5 then .ok (.testbit ws o.a o.n)
  else if bop = 0x0C#5 then .ok (.select ws o.c o.a o.b)
  else if bop = 0x0D#5 then .ok (.band (bitOf o.a) (bitOf o.b))
  else if bop = 0x0E#5 then .ok (.bor (bitOf o.a) (bitOf o.b))
  else if bop = 0x0F#5 then .ok (.bnot (bitOf o.a))
  else if bop = 0x10#5 then .ok (.lookup ws o.tsel o.n)
  else .error .reservedBop

/-- The decoder of both ports. It reads no state (R76). -/
def decode : PortWord → Except Reject Instr
  | .command cmd arg => decodeCommand cmd arg
  | .request breq o => decodeRequest breq o

/-- `CMD = (IMM8 << 8) | OPC` (R81). -/
def cmdWord (opc imm : BitVec 8) : BitVec 16 := imm ++ opc

/-- `BREQ = (WSEL << 5) | BOP` (R78). -/
def breqWord (bop : BitVec 5) (ws : WSel) : BitVec 7 := ws.bits ++ bop

/-- Operand lanes that all read 0. -/
def ReqOperands.zero : ReqOperands := ⟨0#64, 0#64, false, 0#7, 0#64, false⟩

/-- The port word of an instruction: `ARG` and the operand lanes it does not read are 0 (R81), and the
boolean operations drive `WSEL = 00` (R78). -/
def encode : Instr → PortWord
  | .msgIn v => .command (cmdWord 0x01#8 0#8) v
  | .msgClear => .command (cmdWord 0x02#8 0#8) 0#64
  | .hash => .command (cmdWord 0x03#8 0#8) 0#64
  | .digestRd i => .command (cmdWord 0x04#8 i) 0#64
  | .statusRd => .command (cmdWord 0x05#8 0#8) 0#64
  | .padNeeded l => .command (cmdWord 0x10#8 0#8) l
  | .padLen l => .command (cmdWord 0x11#8 0#8) l
  | .padByte i l => .command (cmdWord 0x12#8 i) l
  | .and ws a b => .request (breqWord 0x00#5 ws) { ReqOperands.zero with a := a, b := b }
  | .or ws a b => .request (breqWord 0x01#5 ws) { ReqOperands.zero with a := a, b := b }
  | .xor ws a b => .request (breqWord 0x02#5 ws) { ReqOperands.zero with a := a, b := b }
  | .not ws a => .request (breqWord 0x03#5 ws) { ReqOperands.zero with a := a }
  | .add ws a b => .request (breqWord 0x04#5 ws) { ReqOperands.zero with a := a, b := b }
  | .mul ws a b => .request (breqWord 0x05#5 ws) { ReqOperands.zero with a := a, b := b }
  | .shl ws a n => .request (breqWord 0x06#5 ws) { ReqOperands.zero with a := a, n := n }
  | .shr ws a n => .request (breqWord 0x07#5 ws) { ReqOperands.zero with a := a, n := n }
  | .rotl ws a n => .request (breqWord 0x08#5 ws) { ReqOperands.zero with a := a, n := n }
  | .rotr ws a n => .request (breqWord 0x09#5 ws) { ReqOperands.zero with a := a, n := n }
  | .const ws lit => .request (breqWord 0x0A#5 ws) { ReqOperands.zero with lit := lit }
  | .testbit ws a n => .request (breqWord 0x0B#5 ws) { ReqOperands.zero with a := a, n := n }
  | .select ws c a b => .request (breqWord 0x0C#5 ws) { ReqOperands.zero with c := c, a := a, b := b }
  | .band a b => .request (breqWord 0x0D#5 .w8) { ReqOperands.zero with a := boolLane a, b := boolLane b }
  | .bor a b => .request (breqWord 0x0E#5 .w8) { ReqOperands.zero with a := boolLane a, b := boolLane b }
  | .bnot a => .request (breqWord 0x0F#5 .w8) { ReqOperands.zero with a := boolLane a }
  | .lookup ws tsel n => .request (breqWord 0x10#5 ws) { ReqOperands.zero with tsel := tsel, n := n }

/-- The port word a table word of `nbits` bits stands for, operand bits above `nbits` being 0. A word of at
most eight bits is a `BREQ7` word when its value is a request with a defined `BOP`; every other word is a
command, `CMD` in bits 15:0 and `ARG` from bit 16 on. Log entry 13. -/
def tablePortWord (nbits w : Nat) : PortWord :=
  let v := w % 2 ^ nbits
  if nbits ≤ 8 ∧ v < 128 ∧ v % 32 ≤ 16 then .request (BitVec.ofNat 7 v) ReqOperands.zero
  else .command (BitVec.ofNat 16 v) (BitVec.ofNat 64 (v >>> 16))

/-- What the decoder reads from a table word. -/
def decodeTableWord (nbits w : Nat) : Option Instr :=
  match decode (tablePortWord nbits w) with
  | .ok i => some i
  | .error _ => none

/-- One row of spec/opcode_table.json: `host` says that it is a `CMD16` row, else it is a `BREQ7` row. -/
structure OpcodeRow where
  mnemonic : String
  host : Bool
  pattern : Nat
  mask : Nat
  deriving DecidableEq, Repr

/-- The eight `CMD16` rows (R72). -/
def commandRows : List OpcodeRow :=
  [⟨"MSG_IN", true, 0x0001, 0xFFFF⟩, ⟨"MSG_CLEAR", true, 0x0002, 0xFFFF⟩, ⟨"HASH", true, 0x0003, 0xFFFF⟩,
   ⟨"DIGEST_RD", true, 0x0004, 0x00FF⟩, ⟨"STATUS_RD", true, 0x0005, 0xFFFF⟩,
   ⟨"PAD_NEEDED", true, 0x0010, 0xFFFF⟩, ⟨"PAD_LEN", true, 0x0011, 0xFFFF⟩,
   ⟨"PAD_BYTE", true, 0x0012, 0x00FF⟩]

/-- The seventeen `BREQ7` rows (R79). -/
def requestRows : List OpcodeRow :=
  [⟨"AND", false, 0x00, 0x1F⟩, ⟨"OR", false, 0x01, 0x1F⟩, ⟨"XOR", false, 0x02, 0x1F⟩,
   ⟨"NOT", false, 0x03, 0x1F⟩, ⟨"ADD", false, 0x04, 0x1F⟩, ⟨"MUL", false, 0x05, 0x1F⟩,
   ⟨"SHL", false, 0x06, 0x1F⟩, ⟨"SHR", false, 0x07, 0x1F⟩, ⟨"ROTL", false, 0x08, 0x1F⟩,
   ⟨"ROTR", false, 0x09, 0x1F⟩, ⟨"CONST", false, 0x0A, 0x1F⟩, ⟨"TESTBIT", false, 0x0B, 0x1F⟩,
   ⟨"SELECT", false, 0x0C, 0x1F⟩, ⟨"BAND", false, 0x0D, 0x1F⟩, ⟨"BOR", false, 0x0E, 0x1F⟩,
   ⟨"BNOT", false, 0x0F, 0x1F⟩, ⟨"LOOKUP", false, 0x10, 0x1F⟩]

/-- spec/opcode_table.json. -/
def opcodeTable : List OpcodeRow := commandRows ++ requestRows

/-- The row covers the port word: same port, and the masked word is the row's pattern. -/
def OpcodeRow.covers (r : OpcodeRow) : PortWord → Bool
  | .command cmd _ => r.host && decide (cmd.toNat &&& r.mask = r.pattern)
  | .request breq _ => !r.host && decide (breq.toNat &&& r.mask = r.pattern)

/-- The table's mnemonic of an instruction. -/
def mnemonicOf : Instr → String
  | .msgIn _ => "MSG_IN"
  | .msgClear => "MSG_CLEAR"
  | .hash => "HASH"
  | .digestRd _ => "DIGEST_RD"
  | .statusRd => "STATUS_RD"
  | .padNeeded _ => "PAD_NEEDED"
  | .padLen _ => "PAD_LEN"
  | .padByte _ _ => "PAD_BYTE"
  | .and _ _ _ => "AND"
  | .or _ _ _ => "OR"
  | .xor _ _ _ => "XOR"
  | .not _ _ => "NOT"
  | .add _ _ _ => "ADD"
  | .mul _ _ _ => "MUL"
  | .shl _ _ _ => "SHL"
  | .shr _ _ _ => "SHR"
  | .rotl _ _ _ => "ROTL"
  | .rotr _ _ _ => "ROTR"
  | .const _ _ => "CONST"
  | .testbit _ _ _ => "TESTBIT"
  | .select _ _ _ _ => "SELECT"
  | .band _ _ => "BAND"
  | .bor _ _ => "BOR"
  | .bnot _ => "BNOT"
  | .lookup _ _ _ => "LOOKUP"

/-- The instruction is one of the eight host commands (R72), not a backend request. -/
def Instr.isCommand : Instr → Bool
  | .msgIn _ => true
  | .msgClear => true
  | .hash => true
  | .digestRd _ => true
  | .statusRd => true
  | .padNeeded _ => true
  | .padLen _ => true
  | .padByte _ _ => true
  | .and _ _ _ => false
  | .or _ _ _ => false
  | .xor _ _ _ => false
  | .not _ _ => false
  | .add _ _ _ => false
  | .mul _ _ _ => false
  | .shl _ _ _ => false
  | .shr _ _ _ => false
  | .rotl _ _ _ => false
  | .rotr _ _ _ => false
  | .const _ _ => false
  | .testbit _ _ _ => false
  | .select _ _ _ _ => false
  | .band _ _ => false
  | .bor _ _ => false
  | .bnot _ => false
  | .lookup _ _ _ => false

end Sys2Proof
end

