-- ==== Sys2Proof/Machine/Variant.lean ====
section
/-! DEFINITION. The variant descriptor: the parameters of each variant (R2, R4, R5) and its constant ROM, the
initial hash words (R221 to R227) and the round constants (R228 to R230), as R36 and R220 give them. -/

namespace Sys2Proof.Variant

/-- `VARIANT_ID` (R2). -/
def ident : Variant → BitVec 3
  | .sha1 => 0#3
  | .sha224 => 1#3
  | .sha256 => 2#3
  | .sha384 => 3#3
  | .sha512 => 4#3
  | .sha512t224 => 5#3
  | .sha512t256 => 6#3

/-- The variant is of the 64-bit family (00_scope.md section 5): `W = 64`. -/
def wide : Variant → Bool
  | .sha1 => false
  | .sha224 => false
  | .sha256 => false
  | .sha384 => true
  | .sha512 => true
  | .sha512t224 => true
  | .sha512t256 => true

/-- `W`, the word width in bits (R4). -/
def w (v : Variant) : Nat := if v.wide then 64 else 32

/-- `BB`, the block size in bits (R4). -/
def bb (v : Variant) : Nat := if v.wide then 1024 else 512

/-- `LF`, the length-field width in bits (R4). -/
def lf (v : Variant) : Nat := if v.wide then 128 else 64

/-- `R`, the rounds per block (R4). -/
def rounds : Variant → Nat
  | .sha1 => 80
  | .sha224 => 64
  | .sha256 => 64
  | .sha384 => 80
  | .sha512 => 80
  | .sha512t224 => 80
  | .sha512t256 => 80

/-- `NH`, the hash words used (R4). -/
def nh : Variant → Nat
  | .sha1 => 5
  | .sha224 => 8
  | .sha256 => 8
  | .sha384 => 8
  | .sha512 => 8
  | .sha512t224 => 8
  | .sha512t256 => 8

/-- `DB`, the digest bits (R4). -/
def db : Variant → Nat
  | .sha1 => 160
  | .sha224 => 224
  | .sha256 => 256
  | .sha384 => 384
  | .sha512 => 512
  | .sha512t224 => 224
  | .sha512t256 => 256

/-- `ND`, the digest words read (R4; R5 gives it as `ceil(DB / W)`). -/
def nd : Variant → Nat
  | .sha1 => 5
  | .sha224 => 7
  | .sha256 => 8
  | .sha384 => 6
  | .sha512 => 8
  | .sha512t224 => 4
  | .sha512t256 => 4

/-- Initial hash words (R221). -/
def sha1Iv : List Word :=
  [0x67452301, 0xEFCDAB89, 0x98BADCFE, 0x10325476, 0xC3D2E1F0]

/-- Initial hash words (R222). -/
def sha224Iv : List Word :=
  [0xC1059ED8, 0x367CD507, 0x3070DD17, 0xF70E5939,
   0xFFC00B31, 0x68581511, 0x64F98FA7, 0xBEFA4FA4]

/-- Initial hash words (R223). -/
def sha256Iv : List Word :=
  [0x6A09E667, 0xBB67AE85, 0x3C6EF372, 0xA54FF53A,
   0x510E527F, 0x9B05688C, 0x1F83D9AB, 0x5BE0CD19]

/-- Initial hash words (R224). -/
def sha384Iv : List Word :=
  [0xCBBB9D5DC1059ED8, 0x629A292A367CD507,
   0x9159015A3070DD17, 0x152FECD8F70E5939,
   0x67332667FFC00B31, 0x8EB44A8768581511,
   0xDB0C2E0D64F98FA7, 0x47B5481DBEFA4FA4]

/-- Initial hash words (R225). -/
def sha512Iv : List Word :=
  [0x6A09E667F3BCC908, 0xBB67AE8584CAA73B,
   0x3C6EF372FE94F82B, 0xA54FF53A5F1D36F1,
   0x510E527FADE682D1, 0x9B05688C2B3E6C1F,
   0x1F83D9ABFB41BD6B, 0x5BE0CD19137E2179]

/-- Initial hash words (R226). -/
def sha512t224Iv : List Word :=
  [0x8C3D37C819544DA2, 0x73E1996689DCD4D6,
   0x1DFAB7AE32FF9C82, 0x679DD514582F9FCF,
   0x0F6D2B697BD44DA8, 0x77E36F7304C48942,
   0x3F9D85A86A1D36C8, 0x1112E6AD91D692A1]

/-- Initial hash words (R227). -/
def sha512t256Iv : List Word :=
  [0x22312194FC2BF72C, 0x9F555FA3C84C64C2,
   0x2393B86B6F53B151, 0x963877195940EABD,
   0x96283EE2A88EFFE3, 0xBE5E1E2553863992,
   0x2B0199FC2C85B8AA, 0x0EB72DDC81C52CA2]

/-- SHA-1 round constants (R228). -/
def sha1K : List Word :=
  [0x5A827999, 0x6ED9EBA1, 0x8F1BBCDC, 0xCA62C1D6]

/-- SHA-224 and SHA-256 round constants (R229), entries 0 to 15. -/
def k256Part0 : List Word :=
  [0x428A2F98, 0x71374491, 0xB5C0FBCF, 0xE9B5DBA5,
   0x3956C25B, 0x59F111F1, 0x923F82A4, 0xAB1C5ED5,
   0xD807AA98, 0x12835B01, 0x243185BE, 0x550C7DC3,
   0x72BE5D74, 0x80DEB1FE, 0x9BDC06A7, 0xC19BF174]

/-- SHA-224 and SHA-256 round constants (R229), entries 16 to 31. -/
def k256Part1 : List Word :=
  [0xE49B69C1, 0xEFBE4786, 0x0FC19DC6, 0x240CA1CC,
   0x2DE92C6F, 0x4A7484AA, 0x5CB0A9DC, 0x76F988DA,
   0x983E5152, 0xA831C66D, 0xB00327C8, 0xBF597FC7,
   0xC6E00BF3, 0xD5A79147, 0x06CA6351, 0x14292967]

/-- SHA-224 and SHA-256 round constants (R229), entries 32 to 47. -/
def k256Part2 : List Word :=
  [0x27B70A85, 0x2E1B2138, 0x4D2C6DFC, 0x53380D13,
   0x650A7354, 0x766A0ABB, 0x81C2C92E, 0x92722C85,
   0xA2BFE8A1, 0xA81A664B, 0xC24B8B70, 0xC76C51A3,
   0xD192E819, 0xD6990624, 0xF40E3585, 0x106AA070]

/-- SHA-224 and SHA-256 round constants (R229), entries 48 to 63. -/
def k256Part3 : List Word :=
  [0x19A4C116, 0x1E376C08, 0x2748774C, 0x34B0BCB5,
   0x391C0CB3, 0x4ED8AA4A, 0x5B9CCA4F, 0x682E6FF3,
   0x748F82EE, 0x78A5636F, 0x84C87814, 0x8CC70208,
   0x90BEFFFA, 0xA4506CEB, 0xBEF9A3F7, 0xC67178F2]

/-- SHA-224 and SHA-256 round constants (R229). -/
def k256 : List Word :=
  k256Part0 ++ k256Part1 ++ k256Part2 ++ k256Part3

/-- Round constants of the 64-bit family (R230), entries 0 to 15. -/
def k512Part0 : List Word :=
  [0x428A2F98D728AE22, 0x7137449123EF65CD, 0xB5C0FBCFEC4D3B2F, 0xE9B5DBA58189DBBC,
   0x3956C25BF348B538, 0x59F111F1B605D019, 0x923F82A4AF194F9B, 0xAB1C5ED5DA6D8118,
   0xD807AA98A3030242, 0x12835B0145706FBE, 0x243185BE4EE4B28C, 0x550C7DC3D5FFB4E2,
   0x72BE5D74F27B896F, 0x80DEB1FE3B1696B1, 0x9BDC06A725C71235, 0xC19BF174CF692694]

/-- Round constants of the 64-bit family (R230), entries 16 to 31. -/
def k512Part1 : List Word :=
  [0xE49B69C19EF14AD2, 0xEFBE4786384F25E3, 0x0FC19DC68B8CD5B5, 0x240CA1CC77AC9C65,
   0x2DE92C6F592B0275, 0x4A7484AA6EA6E483, 0x5CB0A9DCBD41FBD4, 0x76F988DA831153B5,
   0x983E5152EE66DFAB, 0xA831C66D2DB43210, 0xB00327C898FB213F, 0xBF597FC7BEEF0EE4,
   0xC6E00BF33DA88FC2, 0xD5A79147930AA725, 0x06CA6351E003826F, 0x142929670A0E6E70]

/-- Round constants of the 64-bit family (R230), entries 32 to 47. -/
def k512Part2 : List Word :=
  [0x27B70A8546D22FFC, 0x2E1B21385C26C926, 0x4D2C6DFC5AC42AED, 0x53380D139D95B3DF,
   0x650A73548BAF63DE, 0x766A0ABB3C77B2A8, 0x81C2C92E47EDAEE6, 0x92722C851482353B,
   0xA2BFE8A14CF10364, 0xA81A664BBC423001, 0xC24B8B70D0F89791, 0xC76C51A30654BE30,
   0xD192E819D6EF5218, 0xD69906245565A910, 0xF40E35855771202A, 0x106AA07032BBD1B8]

/-- Round constants of the 64-bit family (R230), entries 48 to 63. -/
def k512Part3 : List Word :=
  [0x19A4C116B8D2D0C8, 0x1E376C085141AB53, 0x2748774CDF8EEB99, 0x34B0BCB5E19B48A8,
   0x391C0CB3C5C95A63, 0x4ED8AA4AE3418ACB, 0x5B9CCA4F7763E373, 0x682E6FF3D6B2B8A3,
   0x748F82EE5DEFB2FC, 0x78A5636F43172F60, 0x84C87814A1F0AB72, 0x8CC702081A6439EC,
   0x90BEFFFA23631E28, 0xA4506CEBDE82BDE9, 0xBEF9A3F7B2C67915, 0xC67178F2E372532B]

/-- Round constants of the 64-bit family (R230), entries 64 to 79. -/
def k512Part4 : List Word :=
  [0xCA273ECEEA26619C, 0xD186B8C721C0C207, 0xEADA7DD6CDE0EB1E, 0xF57D4F7FEE6ED178,
   0x06F067AA72176FBA, 0x0A637DC5A2C898A6, 0x113F9804BEF90DAE, 0x1B710B35131C471B,
   0x28DB77F523047D84, 0x32CAAB7B40C72493, 0x3C9EBE0A15C9BEBC, 0x431D67C49C100D4C,
   0x4CC5D4BECB3E42B6, 0x597F299CFC657E2A, 0x5FCB6FAB3AD6FAEC, 0x6C44198C4A475817]

/-- Round constants of the 64-bit family (R230). -/
def k512 : List Word :=
  k512Part0 ++ k512Part1 ++ k512Part2 ++ k512Part3 ++ k512Part4

/-- `IVT`, the initial-hash table (R36, R220). -/
def ivt : Variant → List Word
  | .sha1 => sha1Iv
  | .sha224 => sha224Iv
  | .sha256 => sha256Iv
  | .sha384 => sha384Iv
  | .sha512 => sha512Iv
  | .sha512t224 => sha512t224Iv
  | .sha512t256 => sha512t256Iv

/-- `KT`, the round-constant table (R36, R220). -/
def kt : Variant → List Word
  | .sha1 => sha1K
  | .sha224 => k256
  | .sha256 => k256
  | .sha384 => k512
  | .sha512 => k512
  | .sha512t224 => k512
  | .sha512t256 => k512

/-- The table `TSEL` selects: `KT` for 0, `IVT` for 1 (R80, R117). -/
def rom (v : Variant) (tsel : Bool) : List Word := if tsel then v.ivt else v.kt

/-- The entry a valid `LOOKUP` answers (R117). The engine reads inside its tables only (R119), so the value
past the end is never used. -/
def romEntry (v : Variant) (tsel : Bool) (n : Nat) : Word := (v.rom tsel).getD n 0#64

/-- The round constant of round `t`: `KT[t div 20]` for SHA-1 (R228, R235), `KT[t]` else (R236). -/
def roundConstant (v : Variant) (t : Nat) : Word :=
  match v with
  | .sha1 => v.romEntry false (t / 20)
  | .sha224 => v.romEntry false t
  | .sha256 => v.romEntry false t
  | .sha384 => v.romEntry false t
  | .sha512 => v.romEntry false t
  | .sha512t224 => v.romEntry false t
  | .sha512t256 => v.romEntry false t

end Sys2Proof.Variant
end

