-- ==== Sys2Proof/Machine/State.lean ====
section
/-! DEFINITION. The state of one engine instance (R20), as plain data, the reasons a step can stop, and the
state after reset (R300). -/

namespace Sys2Proof.Machine

/-- The fault codes of R272, by name. They are recorded in `FAULT_CODE` by a NEXT state (R271); they are no
Lean-level stop. -/
inductive FaultCode where
  | illegalCommand
  | hashEmpty
  | hashUnaligned
  | digestNotValid
  | digestIndex
  | operandRange
  | bufferFull
  | padNotByte
  | padIndex
  | backendContract
  deriving DecidableEq, Repr

/-- Lean-level faults. No step raises one: every contract violation of the spec is recorded in the state. -/
inductive Fault where
  /-- Raised by `State.build` alone, for a `BUF_CAP` that R3 does not allow: there is no such instance. Safe. -/
  | badBufCap
  deriving DecidableEq, Repr

/-- Refusals. No instruction of the opcode table ends in one. -/
inductive Refusal where
  /-- Raised by `exec` for an instruction that has no meaning yet; no arm raises it. Safe. -/
  | notModelled (mnemonic : String)
  /-- Raised by `State.build` alone, for a configuration with a number of hosts other than one (R64). Safe. -/
  | notOneHost
  deriving DecidableEq, Repr

/-- The hidden registers (R37): no command reads them, and no claim may depend on them. A `Held` mark says
which of them a command has written since reset; one that is not held has no value (R301). -/
structure Hidden where
  /-- `SCHED[0..79]` (R23). -/
  sched : Vector Word 80
  /-- The slots `SCHED[0 .. schedHeld-1]` hold a value (R301). -/
  schedHeld : Nat
  /-- `WV[0..7]`, named `a..h` (R24). -/
  wv : Words8 64
  /-- The slots `WV[0 .. wvHeld-1]` hold a value (R301, R302). -/
  wvHeld : Nat
  /-- `T` of SHA-1 (R25). -/
  t : Word
  /-- `T` holds a value. -/
  tHeld : Bool
  /-- `T1` of the other variants (R25). -/
  t1 : Word
  /-- `T2` of the other variants (R25). -/
  t2 : Word
  /-- `T1` and `T2` hold a value. -/
  t12Held : Bool
  /-- The sequencer's block index `j` (R30, R185). -/
  seqBlock : Nat
  /-- The sequencer's round index `t` (R30, R185). -/
  seqRound : Nat
  deriving DecidableEq, Repr

/-- The state of one instance. -/
structure State where
  /-- `VARIANT` (R1, R2): no command changes it. -/
  variant : Variant
  /-- `BUF_CAP` (R1, R3): no command changes it. -/
  bufCap : Nat
  /-- `BUF[0 .. COUNT-1]` in append order (R21); its length is `COUNT`. Log entry 11. -/
  buf : Memory
  /-- `H[0..7]`, each word on its lane (R22). -/
  h : Words8 64
  /-- The slots `H[0 .. hHeld-1]` hold a value (R301, R302). -/
  hHeld : Nat
  /-- The hidden registers (R37). -/
  hidden : Hidden
  /-- `DIGEST_VALID` (R26). -/
  digestValid : Bool
  /-- `FAULT` (R27). -/
  fault : Bool
  /-- `FAULT_CODE` (R27, R272). -/
  faultCode : BitVec 4
  /-- `RSP_OK` (R35). -/
  rspOk : Bool
  /-- `RSP_DATA` (R35). -/
  rspData : Word
  /-- The result `Y` of the latest answered backend request (R77), on its lane. Log entry 6. -/
  y : Word
  /-- What the host and the platform have issued and the engine has not yet taken, oldest first (R63, R305).
  Log entry 5. -/
  pending : List PortEvent
  deriving DecidableEq, Repr

/-- `COUNT` (R21): the number of words the buffer holds. -/
def State.count (s : State) : Nat := s.buf.length

/-- The hidden registers after reset: nothing is held (R300, R301). The lanes' zeros stand for no value. Log
entry 1. -/
def Hidden.reset : Hidden where
  sched := Vector.replicate 80 0#64
  schedHeld := 0
  wv := ⟨0#64, 0#64, 0#64, 0#64, 0#64, 0#64, 0#64, 0#64⟩
  wvHeld := 0
  t := 0#64
  tHeld := false
  t1 := 0#64
  t2 := 0#64
  t12Held := false
  seqBlock := 0
  seqRound := 0

/-- The state after reset of the instance of variant `v` and capacity `cap` (R300, R303). `H` and the hidden
registers hold no value (R301; log entry 1), and the response is the model's choice (log entry 2). -/
def State.resetOf (v : Variant) (cap : Nat) : State where
  variant := v
  bufCap := cap
  buf := []
  h := ⟨0#64, 0#64, 0#64, 0#64, 0#64, 0#64, 0#64, 0#64⟩
  hHeld := 0
  hidden := Hidden.reset
  digestValid := false
  fault := false
  faultCode := 0#4
  rspOk := false
  rspData := 0#64
  y := 0#64
  pending := []

/-- The machine right after reset, for the instance of log entry 4. -/
def State.reset : State := State.resetOf Config.resetVariant Config.resetBufCap

end Sys2Proof.Machine
end

