-- ==== Sys2Proof/Machine/Flags.lean ====
section
/-! DEFINITION. The flags: the encoding of fault codes (R272), the derived conditions of R28 and R33, and the
`STATUS` view (R32 to R34). The engine has no arithmetic flag (R31). -/

namespace Sys2Proof.Machine

/-- The four bits of a fault code (R272). -/
def FaultCode.bits : FaultCode → BitVec 4
  | .illegalCommand => 1#4
  | .hashEmpty => 2#4
  | .hashUnaligned => 3#4
  | .digestNotValid => 4#4
  | .digestIndex => 5#4
  | .operandRange => 6#4
  | .bufferFull => 7#4
  | .padNotByte => 8#4
  | .padIndex => 9#4
  | .backendContract => 10#4

/-- The fault of a port word that is no instruction (R273, R282). -/
def rejectFault : Reject → FaultCode
  | .illegalOpcode => .illegalCommand
  | .immediateNotZero => .illegalCommand
  | .reservedBop => .backendContract

/-- The source's **Empty** (R28). -/
def isEmpty (s : State) : Bool := decide (s.count = 0)

/-- The source's **Buffering** (R28). -/
def isBuffering (s : State) : Bool := decide (0 < s.count) && decide (s.count % 16 ≠ 0)

/-- The source's **Ready**, and `STATUS.READY` (R28, R33). -/
def isReady (s : State) : Bool := decide (0 < s.count) && decide (s.count % 16 = 0)

/-- The source's **Digested** (R28). -/
def isDigested (s : State) : Bool := s.digestValid

/-- `STATUS.FULL` (R33). -/
def isFull (s : State) : Bool := decide (s.count = s.bufCap)

/-- `STATUS.FAULT_CODE`: 0 when `FAULT = 0` (R33). -/
def shownFaultCode (s : State) : BitVec 4 := if s.fault then s.faultCode else 0#4

/-- `STATUS`, every bit of R33; the reserved fields read 0 (R34). -/
def statusWord (s : State) : Word :=
  BitVec.ofNat 32 s.count ++ 0#16 ++ BitVec.ofBool s.variant.wide ++ s.variant.ident ++ shownFaultCode s ++ 0#4
    ++ BitVec.ofBool (isFull s) ++ BitVec.ofBool (isReady s) ++ BitVec.ofBool s.fault ++ BitVec.ofBool s.digestValid

end Sys2Proof.Machine
end

