-- ==== Sys2Proof/Machine/Ops.lean ====
section
/-! DEFINITION. The named operations over the state: the response (R35), taking a fault (R271), refusing a
command of a faulted engine (R284), the buffer (R21), reading the hash state (R38), and reset (R300). There is
no return from a fault beside it: only reset leaves one (R285). -/

namespace Sys2Proof.Machine

/-- `respond(ok, data)` (00_scope.md section 4, R35). -/
def respond (ok : Bool) (data : Word) (s : State) : State := { s with rspOk := ok, rspData := data }

/-- A refused command: no state changes and the response is `(0, 0)` (R284). -/
def refuse (s : State) : State := respond false 0#64 s

/-- Fault entry of an engine with `FAULT = 0` (R271): the code is recorded, the response is `(0, 0)`, and
nothing else is written. -/
def enterFault (code : FaultCode) (s : State) : State :=
  { s with fault := true, faultCode := code.bits, rspOk := false, rspData := 0#64 }

/-- `raise Fault(code)` (R271). A faulted engine keeps its first code (R27, R284). -/
def raiseFault (code : FaultCode) (s : State) : State := if s.fault then refuse s else enterFault code s

/-- The gate every command but `STATUS_RD` passes first (R284). -/
def unlessFaulted (s : State) (body : State → State) : Host.Outcome State Fault Refusal :=
  if s.fault then .next (refuse s) else .next (body s)

/-- `BufAppend(v)` (00_scope.md section 4): the word goes to index `COUNT` (R180). -/
def bufAppend (v : Word) (s : State) : State := { s with buf := s.buf ++ [v] }

/-- `BufRead(k)`: `BUF[k]` for `k < COUNT`; the words past it hold no value (R21). -/
def bufRead (k : Nat) (s : State) : Option Word := s.buf[k]?

/-- `BufClear()`: `COUNT <- 0` (R182). -/
def bufClear (s : State) : State := { s with buf := [] }

/-- The buffer of an instance: at most `BUF_CAP` words, each a word of width `W` on its lane (R21). -/
def Memory.wf (v : Variant) (cap : Nat) (m : Memory) : Bool :=
  decide (m.length ≤ cap) && m.all (Word.fits v.w)

/-- Slot `i` of an eight-slot file. -/
def slot {w : Nat} (r : Words8 w) (i : Nat) : BitVec w :=
  match i with
  | 0 => r.a
  | 1 => r.b
  | 2 => r.c
  | 3 => r.d
  | 4 => r.e
  | 5 => r.f
  | 6 => r.g
  | _ => r.h

/-- The eight slots `f 0 .. f 7`. -/
def slotsOf {w : Nat} (f : Nat → BitVec w) : Words8 w := ⟨f 0, f 1, f 2, f 3, f 4, f 5, f 6, f 7⟩

/-- The first `n` slots of `new`, the others of `old`: how a variant with `NH = n` writes a file (R6, R22). -/
def overlay {w : Nat} (n : Nat) (new old : Words8 w) : Words8 w :=
  slotsOf fun i => if i < n then slot new i else slot old i

/-- `H[i]`. A slot that holds no value reads as the free value of log entry 3; no command reads one in a state
that a run reaches. -/
def readH (s : State) (i : Nat) : Word := if i < s.hHeld then slot s.h i else Config.absentWord i

/-- The platform's reset input (R300): `VARIANT` and `BUF_CAP` are unchanged, a port word in flight is
abandoned with no effect and no response, and what is issued after it waits. Log entry 12. -/
def takeReset (_inFlight : Option PortWord) (s : State) : State :=
  { State.resetOf s.variant s.bufCap with pending := s.pending }

/-- Building an instance (R1 to R3, R64): the state after reset, refused for a number of hosts other than one and
faulted for a capacity R3 does not allow. -/
def State.build (hosts : Nat) (v : Variant) (cap : Nat) : Host.Outcome State Fault Refusal :=
  if hosts ≠ 1 then .refused .notOneHost
  else if Config.bufCapLegal cap then .next (State.resetOf v cap)
  else .fault .badBufCap

end Sys2Proof.Machine
end

