-- ==== Sys2Proof/Machine/Operands.lean ====
section
/-! DEFINITION. The concrete backend: the result of every word operation on words of width `w` (R101 to R117), and
how a request's result is answered on the lane `Y` (R77, R100). The hash engine and the round functions use
these same results (R118). -/

namespace Sys2Proof.Machine

variable {w : Nat}

/-- R101. -/
def opAnd (a b : BitVec w) : BitVec w := a &&& b

/-- R102. -/
def opOr (a b : BitVec w) : BitVec w := a ||| b

/-- R103. -/
def opXor (a b : BitVec w) : BitVec w := a ^^^ b

/-- R104: `M XOR A`. -/
def opNot (a : BitVec w) : BitVec w := BitVec.allOnes w ^^^ a

/-- R105: the carry out is discarded. -/
def opAdd (a b : BitVec w) : BitVec w := a + b

/-- R106: the high half is discarded. -/
def opMul (a b : BitVec w) : BitVec w := a * b

/-- R107, for `n < w`. -/
def opShl (a : BitVec w) (n : Nat) : BitVec w := a <<< n

/-- R108, for `n < w`: logical. -/
def opShr (a : BitVec w) (n : Nat) : BitVec w := a >>> n

/-- R109, for `n < w`. -/
def opRotl (a : BitVec w) (n : Nat) : BitVec w := if n = 0 then a else (a <<< n) ||| (a >>> (w - n))

/-- R110, for `n < w`. -/
def opRotr (a : BitVec w) (n : Nat) : BitVec w := if n = 0 then a else (a >>> n) ||| (a <<< (w - n))

/-- R112, for `n < w`. -/
def opTestbit (a : BitVec w) (n : Nat) : Bool := a.getLsbD n

/-- R113. -/
def opSelect (c : Bool) (a b : BitVec w) : BitVec w := if c then a else b

/-- A valid request answers `Y` and writes nothing else (R100). -/
def setY (y : Word) (s : State) : State := { s with y := y }

/-- Answering a request that reads `WSEL`: a reserved width, or an invalid operand (`result` gives none), raises
`BACKEND_CONTRACT` and answers no value (R78, R100, R282); else `Y` is the result. Log entries 7 and 8. -/
def answer (ws : WSel) (result : Nat → Option Word) (s : State) : Host.Outcome State Fault Refusal :=
  match ws.width?.bind result with
  | some y => .next (setY y s)
  | none => .next (raiseFault .backendContract s)

/-- Answering a boolean operation, which does not read `WSEL` (R114 to R116). Log entry 14. -/
def answerBool (b : Bool) (s : State) : Host.Outcome State Fault Refusal := .next (setY (boolLane b) s)

/-- The result of an operation with an amount `n`, which must be below the width (R100). -/
def withAmount (n : BitVec 7) (w : Nat) (y : Word) : Option Word := if n.toNat < w then some y else none

end Sys2Proof.Machine
end

