-- ==== Sys2Proof/Machine/Backend.lean ====
section
/-! DEFINITION. The meanings of the seventeen backend operations (41_wordops.md). Each is a pure function of its
operands and, for `LOOKUP`, of the constant ROM (R100): it writes `Y`, or raises `BACKEND_CONTRACT`. -/

namespace Sys2Proof.Machine

/-- `AND` (R101). -/
def execAnd (ws : WSel) (a b : Word) (s : State) : Host.Outcome State Fault Refusal :=
  answer ws (fun w => some (lane (opAnd (Word.take w a) (Word.take w b)))) s

/-- `OR` (R102). -/
def execOr (ws : WSel) (a b : Word) (s : State) : Host.Outcome State Fault Refusal :=
  answer ws (fun w => some (lane (opOr (Word.take w a) (Word.take w b)))) s

/-- `XOR` (R103). -/
def execXor (ws : WSel) (a b : Word) (s : State) : Host.Outcome State Fault Refusal :=
  answer ws (fun w => some (lane (opXor (Word.take w a) (Word.take w b)))) s

/-- `NOT` (R104). -/
def execNot (ws : WSel) (a : Word) (s : State) : Host.Outcome State Fault Refusal :=
  answer ws (fun w => some (lane (opNot (Word.take w a)))) s

/-- `ADD` (R105). -/
def execAdd (ws : WSel) (a b : Word) (s : State) : Host.Outcome State Fault Refusal :=
  answer ws (fun w => some (lane (opAdd (Word.take w a) (Word.take w b)))) s

/-- `MUL` (R106). -/
def execMul (ws : WSel) (a b : Word) (s : State) : Host.Outcome State Fault Refusal :=
  answer ws (fun w => some (lane (opMul (Word.take w a) (Word.take w b)))) s

/-- `SHL` (R107). -/
def execShl (ws : WSel) (a : Word) (n : BitVec 7) (s : State) : Host.Outcome State Fault Refusal :=
  answer ws (fun w => withAmount n w (lane (opShl (Word.take w a) n.toNat))) s

/-- `SHR` (R108). -/
def execShr (ws : WSel) (a : Word) (n : BitVec 7) (s : State) : Host.Outcome State Fault Refusal :=
  answer ws (fun w => withAmount n w (lane (opShr (Word.take w a) n.toNat))) s

/-- `ROTL` (R109). -/
def execRotl (ws : WSel) (a : Word) (n : BitVec 7) (s : State) : Host.Outcome State Fault Refusal :=
  answer ws (fun w => withAmount n w (lane (opRotl (Word.take w a) n.toNat))) s

/-- `ROTR` (R110). -/
def execRotr (ws : WSel) (a : Word) (n : BitVec 7) (s : State) : Host.Outcome State Fault Refusal :=
  answer ws (fun w => withAmount n w (lane (opRotr (Word.take w a) n.toNat))) s

/-- `CONST` (R111): the literal must fit. -/
def execConst (ws : WSel) (lit : Word) (s : State) : Host.Outcome State Fault Refusal :=
  answer ws (fun w => if lit.toNat < 2 ^ w then some (lane (Word.take w lit)) else none) s

/-- `TESTBIT` (R112). -/
def execTestbit (ws : WSel) (a : Word) (n : BitVec 7) (s : State) : Host.Outcome State Fault Refusal :=
  answer ws (fun w => withAmount n w (boolLane (opTestbit (Word.take w a) n.toNat))) s

/-- `SELECT` (R113). -/
def execSelect (ws : WSel) (c : Bool) (a b : Word) (s : State) : Host.Outcome State Fault Refusal :=
  answer ws (fun w => some (lane (opSelect c (Word.take w a) (Word.take w b)))) s

/-- `BAND` (R114). -/
def execBand (a b : Bool) (s : State) : Host.Outcome State Fault Refusal := answerBool (a && b) s

/-- `BOR` (R115). -/
def execBor (a b : Bool) (s : State) : Host.Outcome State Fault Refusal := answerBool (a || b) s

/-- `BNOT` (R116): `1 - A`. -/
def execBnot (a : Bool) (s : State) : Host.Outcome State Fault Refusal := answerBool (!a) s

/-- `LOOKUP` (R117): `WSEL` must select the instance's `W`, and the index must be inside the table. -/
def execLookup (ws : WSel) (tsel : Bool) (n : BitVec 7) (s : State) : Host.Outcome State Fault Refusal :=
  answer ws (fun w => if w = s.variant.w then (s.variant.rom tsel)[n.toNat]? else none) s

end Sys2Proof.Machine
end

