-- ==== Sys2Proof/Machine/RoundFunctions.lean ====
section
/-! DEFINITION. The round-function library (42_round_functions.md): pure functions of words (R142), each built from
the backend's results (R118). The names `bigSigma`, `smallSigma` write the capital and the small sigma. -/

namespace Sys2Proof.Machine

variable {w : Nat}

/-- `Ch` (R130). -/
def ch (x y z : BitVec w) : BitVec w := opXor (opAnd x y) (opAnd (opNot x) z)

/-- `Parity` (R131). -/
def parity (x y z : BitVec w) : BitVec w := opXor (opXor x y) z

/-- `Maj` (R132). -/
def maj (x y z : BitVec w) : BitVec w := opXor (opXor (opAnd x y) (opAnd x z)) (opAnd y z)

/-- The SHA-1 round selector `f_t` (R133). -/
def sha1F (t : Nat) (x y z : BitVec w) : BitVec w :=
  if t ≤ 19 then ch x y z
  else if t ≤ 39 then parity x y z
  else if t ≤ 59 then maj x y z
  else parity x y z

/-- Three right rotates, XORed (R134, R135, R138, R139). -/
def rotrXor3 (p q r : Nat) (x : BitVec w) : BitVec w := opXor (opXor (opRotr x p) (opRotr x q)) (opRotr x r)

/-- Two right rotates and a right shift, XORed (R136, R137, R140, R141). -/
def rotrXor2Shr (p q r : Nat) (x : BitVec w) : BitVec w := opXor (opXor (opRotr x p) (opRotr x q)) (opShr x r)

/-- R134. -/
def bigSigma0_256 (x : BitVec 32) : BitVec 32 := rotrXor3 2 13 22 x

/-- R135. -/
def bigSigma1_256 (x : BitVec 32) : BitVec 32 := rotrXor3 6 11 25 x

/-- R136. -/
def smallSigma0_256 (x : BitVec 32) : BitVec 32 := rotrXor2Shr 7 18 3 x

/-- R137. -/
def smallSigma1_256 (x : BitVec 32) : BitVec 32 := rotrXor2Shr 17 19 10 x

/-- R138. -/
def bigSigma0_512 (x : BitVec 64) : BitVec 64 := rotrXor3 28 34 39 x

/-- R139. -/
def bigSigma1_512 (x : BitVec 64) : BitVec 64 := rotrXor3 14 18 41 x

/-- R140. -/
def smallSigma0_512 (x : BitVec 64) : BitVec 64 := rotrXor2Shr 1 8 7 x

/-- R141. -/
def smallSigma1_512 (x : BitVec 64) : BitVec 64 := rotrXor2Shr 19 61 6 x

end Sys2Proof.Machine
end

