-- ==== Sys2Proof/Machine/HashCore.lean ====
section
/-! DEFINITION. The variant hooks and the driver loop of `HASH` (45_variants.md, R183, R185), as pure functions of
words of the instance's width: initial words, message schedule, working variables, rounds and folding. -/

namespace Sys2Proof.Machine

variable {w : Nat}

/-- The engine's registers while it hashes (R22 to R25), at the instance's width. -/
structure Regs (w : Nat) where
  hs : Words8 w
  wv : Words8 w
  sched : List (BitVec w)
  t : BitVec w
  t1 : BitVec w
  t2 : BitVec w
  deriving DecidableEq, Repr

/-- The parts of a variant descriptor (R220) that the driver loop runs through. -/
structure Algorithm (w : Nat) where
  /-- `R`. -/
  rounds : Nat
  /-- `NH`. -/
  nh : Nat
  /-- `IVT`, one word a slot. -/
  iv : Words8 w
  /-- The round constant of round `t`. -/
  k : Nat → BitVec w
  /-- `SCHED[t]` for `t >= 16`, from `back i = SCHED[t-i]`. -/
  next : (Nat → BitVec w) → BitVec w
  /-- Round `t`, from its constant and its schedule word. -/
  round : Nat → BitVec w → BitVec w → Regs w → Regs w

/-- SHA-1 schedule recurrence (R231). -/
def sha1Next (back : Nat → BitVec w) : BitVec w :=
  opRotl (opXor (opXor (opXor (back 3) (back 8)) (back 14)) (back 16)) 1

/-- SHA-2 schedule recurrence over the family's small sigmas (R232, R233). -/
def sha2Next (s0 s1 : BitVec w → BitVec w) (back : Nat → BitVec w) : BitVec w :=
  opAdd (opAdd (opAdd (s1 (back 2)) (back 7)) (s0 (back 15))) (back 16)

/-- SHA-1 round `t` (R235): every read is of the values before the round. -/
def sha1Round (t : Nat) (k x : BitVec w) (r : Regs w) : Regs w :=
  let v := r.wv
  let tt := opAdd (opAdd (opAdd (opAdd (opRotl v.a 5) (sha1F t v.b v.c v.d)) v.e) k) x
  { r with t := tt, wv := { v with e := v.d, d := v.c, c := opRotl v.b 30, b := v.a, a := tt } }

/-- SHA-2 round (R236) over the family's big sigmas: every read is of the values before the round. -/
def sha2Round (s0 s1 : BitVec w → BitVec w) (_t : Nat) (k x : BitVec w) (r : Regs w) : Regs w :=
  let v := r.wv
  let t1 := opAdd (opAdd (opAdd (opAdd v.h (s1 v.e)) (ch v.e v.f v.g)) k) x
  let t2 := opAdd (s0 v.a) (maj v.a v.b v.c)
  { r with
    t1 := t1, t2 := t2,
    wv := ⟨opAdd t1 t2, v.a, v.b, v.c, opAdd v.d t1, v.e, v.f, v.g⟩ }

/-- The words of a ROM table at width `w`, one a slot (R36). -/
def ivSlots (v : Variant) (w : Nat) : Words8 w := slotsOf fun i => Word.take w (v.romEntry true i)

/-- SHA-1 (R221, R228, R231, R235). -/
def sha1Algorithm : Algorithm 32 where
  rounds := Variant.sha1.rounds
  nh := Variant.sha1.nh
  iv := ivSlots .sha1 32
  k := fun t => Word.take 32 (Variant.sha1.roundConstant t)
  next := sha1Next
  round := sha1Round

/-- SHA-224 and SHA-256 (R222, R223, R229, R232, R236). -/
def sha2Narrow (v : Variant) : Algorithm 32 where
  rounds := v.rounds
  nh := v.nh
  iv := ivSlots v 32
  k := fun t => Word.take 32 (v.roundConstant t)
  next := sha2Next smallSigma0_256 smallSigma1_256
  round := sha2Round bigSigma0_256 bigSigma1_256

/-- The 64-bit family (R224 to R227, R230, R233, R236). -/
def sha2Wide (v : Variant) : Algorithm 64 where
  rounds := v.rounds
  nh := v.nh
  iv := ivSlots v 64
  k := fun t => Word.take 64 (v.roundConstant t)
  next := sha2Next smallSigma0_512 smallSigma1_512
  round := sha2Round bigSigma0_512 bigSigma1_512

/-- `initHashValue` (R220): the first `NH` slots. -/
def initHashValue (alg : Algorithm w) (r : Regs w) : Regs w := { r with hs := overlay alg.nh alg.iv r.hs }

/-- Extends the schedule, newest word first, by `n` words of the recurrence. -/
def extendSchedule (alg : Algorithm w) : Nat → List (BitVec w) → List (BitVec w)
  | 0, rev => rev
  | n + 1, rev => extendSchedule alg n (alg.next (fun i => rev.getD (i - 1) 0#w) :: rev)

/-- `prepMsgSchedule` (R231 to R233): entries 0 to 15 are the block's words, the others follow the recurrence. -/
def prepMsgSchedule (alg : Algorithm w) (block : List (BitVec w)) : List (BitVec w) :=
  (extendSchedule alg (alg.rounds - 16) block.reverse).reverse

/-- `initWorking` (R234). -/
def initWorking (alg : Algorithm w) (r : Regs w) : Regs w := { r with wv := overlay alg.nh r.hs r.wv }

/-- `workingLoop` from round `t` on, over the schedule words that remain (R235, R236). -/
def workingLoop (alg : Algorithm w) : Nat → List (BitVec w) → Regs w → Regs w
  | _, [], r => r
  | t, x :: xs, r => workingLoop alg (t + 1) xs (alg.round t (alg.k t) x r)

/-- `updateHash` (R237): the first `NH` slots, modulo `2^w`. -/
def updateHash (alg : Algorithm w) (r : Regs w) : Regs w :=
  { r with hs := overlay alg.nh (slotsOf fun i => opAdd (slot r.hs i) (slot r.wv i)) r.hs }

/-- One block (R183): schedule, working variables, rounds, folding. -/
def processBlock (alg : Algorithm w) (block : List (BitVec w)) (r : Regs w) : Regs w :=
  let sched := prepMsgSchedule alg block
  updateHash alg (workingLoop alg 0 sched (initWorking alg { r with sched := sched }))

/-- Block `j`: the words `16j .. 16j+15` (R51). -/
def blockOf (j : Nat) (words : List (BitVec w)) : List (BitVec w) := (words.drop (16 * j)).take 16

/-- Blocks `0 .. n-1` in order; the hash words after one block are the input of the next (R185). -/
def hashBlocks (alg : Algorithm w) (words : List (BitVec w)) : Nat → Regs w → Regs w
  | 0, r => r
  | n + 1, r => processBlock alg (blockOf n words) (hashBlocks alg words n r)

/-- The whole loop of `HASH` over the buffered words (R183). `afterHash` writes nothing (R238). -/
def hashRun (alg : Algorithm w) (words : List (BitVec w)) (r : Regs w) : Regs w :=
  hashBlocks alg words (words.length / 16) (initHashValue alg r)

/-- Every slot of a file on its lane. -/
def lanes {w : Nat} (r : Words8 w) : Words8 64 := slotsOf fun i => lane (slot r i)

/-- Every slot of a file of lanes at width `w`. -/
def unlanes (w : Nat) (r : Words8 64) : Words8 w := slotsOf fun i => Word.take w (slot r i)

/-- The variant's algorithm, at the variant's width (R220). -/
def withAlgorithm {α : Type} (v : Variant) (f : (w : Nat) → Algorithm w → α) : α :=
  match v with
  | .sha1 => f 32 sha1Algorithm
  | .sha224 => f 32 (sha2Narrow .sha224)
  | .sha256 => f 32 (sha2Narrow .sha256)
  | .sha384 => f 64 (sha2Wide .sha384)
  | .sha512 => f 64 (sha2Wide .sha512)
  | .sha512t224 => f 64 (sha2Wide .sha512t224)
  | .sha512t256 => f 64 (sha2Wide .sha512t256)

/-- Registers that hold the given hash words and zeros. -/
def freshRegs (hs : Words8 w) : Regs w where
  hs := hs
  wv := slotsOf fun _ => 0#w
  sched := []
  t := 0#w
  t1 := 0#w
  t2 := 0#w

/-- The hash words of a message of whole blocks: a function of `VARIANT` and the words alone (R187). -/
def hashWords (v : Variant) (words : Memory) : Words8 64 :=
  withAlgorithm v fun w alg => lanes (hashRun alg (words.map (Word.take w)) (freshRegs (slotsOf fun _ => 0#w))).hs

/-- The hash words after one block, from those before it (R183, R185). -/
def compress (v : Variant) (h : Words8 64) (block : Memory) : Words8 64 :=
  withAlgorithm v fun w alg => lanes (processBlock alg (block.map (Word.take w)) (freshRegs (unlanes w h))).hs

/-- The digest-view mask of word `i` (R190): for SHA-512/224 the low 32 bits of `H[3]` read 0. -/
def digestView (v : Variant) (i : Nat) (x : Word) : Word :=
  match v with
  | .sha1 => x
  | .sha224 => x
  | .sha256 => x
  | .sha384 => x
  | .sha512 => x
  | .sha512t224 => if i = 3 then x &&& 0xFFFFFFFF00000000#64 else x
  | .sha512t256 => x

end Sys2Proof.Machine
end

