-- ==== Sys2Proof/Machine/Engine.lean ====
section
/-! DEFINITION. The meanings of the hash-engine commands (44_hash_engine.md): `MSG_IN`, `MSG_CLEAR`, `HASH`,
`DIGEST_RD` and `STATUS_RD`. -/

namespace Sys2Proof.Machine

/-- The operand is a word of the instance's width (R180). -/
def wordTyped (v : Variant) (arg : Word) : Bool := v.wide || decide (arg.extractLsb' 32 32 = 0#32)

/-- `MSG_IN v` (R180): `OPERAND_RANGE`, then `BUFFER_FULL` (R283), then the append. -/
def execMsgIn (arg : Word) (s : State) : Host.Outcome State Fault Refusal :=
  unlessFaulted s fun s =>
    if wordTyped s.variant arg = false then raiseFault .operandRange s
    else if s.count = s.bufCap then raiseFault .bufferFull s
    else respond true 0#64 (bufAppend (lane (Word.take s.variant.w arg)) s)

/-- `MSG_CLEAR` (R182). -/
def execMsgClear (s : State) : Host.Outcome State Fault Refusal :=
  unlessFaulted s fun s => respond true 0#64 (bufClear s)

/-- The registers as the engine finds them, at its width. -/
def loadRegs (w : Nat) (s : State) : Regs w where
  hs := unlanes w s.h
  wv := unlanes w s.hidden.wv
  sched := s.hidden.sched.toList.map (Word.take w)
  t := Word.take w s.hidden.t
  t1 := Word.take w s.hidden.t1
  t2 := Word.take w s.hidden.t2

/-- The schedule slots after a block of `rounds` entries: a variant with `R = 64` leaves `SCHED[64..79]` (R23). -/
def storeSched {w : Nat} (new : List (BitVec w)) (old : Vector Word 80) : Vector Word 80 :=
  Vector.ofFn fun i : Fin 80 =>
    match new[i.val]? with
    | some x => lane x
    | none => old[i.val]

/-- The hidden registers after a `HASH` of `blocks` blocks: those of the last block's last round (R37). SHA-1
writes `T`, the other variants `T1` and `T2` (R25). -/
def storeHidden {w : Nat} (alg : Algorithm w) (isSha1 : Bool) (blocks : Nat) (r : Regs w) (old : Hidden) : Hidden where
  sched := storeSched r.sched old.sched
  schedHeld := max old.schedHeld alg.rounds
  wv := lanes r.wv
  wvHeld := max old.wvHeld alg.nh
  t := if isSha1 then lane r.t else old.t
  tHeld := old.tHeld || isSha1
  t1 := if isSha1 then old.t1 else lane r.t1
  t2 := if isSha1 then old.t2 else lane r.t2
  t12Held := old.t12Held || !isSha1
  seqBlock := blocks - 1
  seqRound := alg.rounds - 1

/-- The state after the loop of `HASH` (R183): `H`, the hidden registers and `DIGEST_VALID`. -/
def hashWith {w : Nat} (alg : Algorithm w) (isSha1 : Bool) (s : State) : State :=
  let r := hashRun alg (s.buf.map (Word.take w)) (loadRegs w s)
  { s with
    h := overlay alg.nh (lanes r.hs) s.h
    hHeld := max s.hHeld alg.nh
    hidden := storeHidden alg isSha1 (s.count / 16) r s.hidden
    digestValid := true }

/-- `HASH` on a buffer that passed the checks, by the instance's variant (R220). -/
def hashBuffer (s : State) : State :=
  withAlgorithm s.variant fun _ alg => hashWith alg (decide (s.variant = .sha1)) s

/-- `HASH` (R183): the checks come before any write (R184). -/
def execHash (s : State) : Host.Outcome State Fault Refusal :=
  unlessFaulted s fun s =>
    if s.count = 0 then raiseFault .hashEmpty s
    else if s.count % 16 ≠ 0 then raiseFault .hashUnaligned s
    else respond true 0#64 (hashBuffer s)

/-- `DIGEST_RD i` (R189). -/
def execDigestRd (i : BitVec 8) (s : State) : Host.Outcome State Fault Refusal :=
  unlessFaulted s fun s =>
    if s.digestValid = false then raiseFault .digestNotValid s
    else if s.variant.nd ≤ i.toNat then raiseFault .digestIndex s
    else respond true (digestView s.variant i.toNat (readH s i.toNat)) s

/-- `STATUS_RD` (R191): it executes in a faulted engine too (R284). -/
def execStatusRd (s : State) : Host.Outcome State Fault Refusal := .next (respond true (statusWord s) s)

end Sys2Proof.Machine
end

