-- ==== Sys2Proof/Machine/Padding.lean ====
section
/-! DEFINITION. The padding unit (43_padding.md): the suffix as bytes (R162), its bit-level definition (R161), and
the meanings of `PAD_NEEDED`, `PAD_LEN` and `PAD_BYTE`. It reads the instance's block size alone (R160). -/

namespace Sys2Proof.Machine

/-- `z`, the number of `0x00` fill bytes (R162). `BYTES` is added so that the difference is no negative number. -/
def padZeros (v : Variant) (l : Nat) : Nat :=
  (2 * (v.bb / 8) - v.lf / 8 - 1 - (l / 8) % (v.bb / 8)) % (v.bb / 8)

/-- `n(L)`, the suffix length in bytes (R162). -/
def padLength (v : Variant) (l : Nat) : Nat := 1 + padZeros v l + v.lf / 8

/-- `byte(i)` for `i < n(L)` (R162). -/
def padByteAt (v : Variant) (l i : Nat) : Byte :=
  if i = 0 then 0x80#8
  else if i < padLength v l - 8 then 0x00#8
  else BitVec.ofNat 8 (l >>> (8 * (padLength v l - 1 - i)))

/-- The suffix as a byte sequence (R162). -/
def padBytes (v : Variant) (l : Nat) : List Byte := (List.range (padLength v l)).map (padByteAt v l)

/-- The `n` low bits of `l`, most significant first. -/
def bitsBE (n l : Nat) : List Bool := (List.range n).map fun i => l.testBit (n - 1 - i)

/-- `LENFIELD` (R161): the length in 64 bits, after 64 zero bits in the 1024-bit-block family. -/
def lengthField (v : Variant) (l : Nat) : List Bool :=
  if v.wide then List.replicate 64 false ++ bitsBE 64 l else bitsBE 64 l

/-- The bits are `suffix(L)` by its bit-level definition (R161), with the least `k` that aligns it. -/
def IsPaddingSuffix (v : Variant) (l : Nat) (bits : List Bool) : Prop :=
  ∃ k, (l + 1 + k) % v.bb = v.bb - 2 * v.w ∧ (∀ j, j < k → (l + 1 + j) % v.bb ≠ v.bb - 2 * v.w) ∧
    bits = true :: (List.replicate k false ++ lengthField v l)

/-- The bits of bytes, most significant first. -/
def bitsOfBytes (bs : List Byte) : List Bool := bs.flatMap fun b => bitsBE 8 b.toNat

/-- `isPaddingNeeded(L)` (R166). -/
def padIsNeeded (v : Variant) (l : Nat) : Bool := decide (l = 0) || decide (l % v.bb ≠ 0)

/-- `PAD_NEEDED L` (R166). -/
def execPadNeeded (l : Word) (s : State) : Host.Outcome State Fault Refusal :=
  unlessFaulted s fun s => respond true (boolLane (padIsNeeded s.variant l.toNat)) s

/-- `PAD_LEN L` (R163). -/
def execPadLen (l : Word) (s : State) : Host.Outcome State Fault Refusal :=
  unlessFaulted s fun s =>
    if l.toNat % 8 ≠ 0 then raiseFault .padNotByte s
    else respond true (BitVec.ofNat 64 (padLength s.variant l.toNat)) s

/-- `PAD_BYTE i, L` (R164). -/
def execPadByte (i : BitVec 8) (l : Word) (s : State) : Host.Outcome State Fault Refusal :=
  unlessFaulted s fun s =>
    if l.toNat % 8 ≠ 0 then raiseFault .padNotByte s
    else if padLength s.variant l.toNat ≤ i.toNat then raiseFault .padIndex s
    else respond true (lane (padByteAt s.variant l.toNat i.toNat)) s

end Sys2Proof.Machine
end

