-- ==== Sys2Proof/Machine/Fetch.lean ====
section
/-! DEFINITION. Where the next instruction comes from: the engine has no program counter (R30) and takes what the
host and the platform issue, one event at a time, in order (R63, R305). -/

namespace Sys2Proof.Machine

/-- Takes the oldest event off the ports; none while the engine is idle (R293). -/
def takeEvent (s : State) : Option (PortEvent × State) :=
  match s.pending with
  | [] => none
  | e :: rest => some (e, { s with pending := rest })

/-- A port word that is no instruction: `ILLEGAL_COMMAND` on the command port (R273), `BACKEND_CONTRACT` on the
request port (R282). -/
def takeReject (e : Reject) (s : State) : State := raiseFault (rejectFault e) s

/-- The port word is the next event. -/
def State.issue (p : PortWord) (s : State) : State := { s with pending := .transaction p :: s.pending }

end Sys2Proof.Machine
end

