-- ==== Sys2Proof/Machine/Dispatch.lean ====
section
/-! DEFINITION. `exec`: one arm per constructor of `Instr`, each one direct call of its meaning. -/

namespace Sys2Proof.Machine

def exec (i : Instr) (s : State) : Host.Outcome State Fault Refusal :=
  match i with
  | .msgIn v => Sys2Proof.Machine.execMsgIn v s
  | .msgClear => Sys2Proof.Machine.execMsgClear s
  | .hash => Sys2Proof.Machine.execHash s
  | .digestRd k => Sys2Proof.Machine.execDigestRd k s
  | .statusRd => Sys2Proof.Machine.execStatusRd s
  | .padNeeded l => Sys2Proof.Machine.execPadNeeded l s
  | .padLen l => Sys2Proof.Machine.execPadLen l s
  | .padByte k l => Sys2Proof.Machine.execPadByte k l s
  | .and ws a b => Sys2Proof.Machine.execAnd ws a b s
  | .or ws a b => Sys2Proof.Machine.execOr ws a b s
  | .xor ws a b => Sys2Proof.Machine.execXor ws a b s
  | .not ws a => Sys2Proof.Machine.execNot ws a s
  | .add ws a b => Sys2Proof.Machine.execAdd ws a b s
  | .mul ws a b => Sys2Proof.Machine.execMul ws a b s
  | .shl ws a n => Sys2Proof.Machine.execShl ws a n s
  | .shr ws a n => Sys2Proof.Machine.execShr ws a n s
  | .rotl ws a n => Sys2Proof.Machine.execRotl ws a n s
  | .rotr ws a n => Sys2Proof.Machine.execRotr ws a n s
  | .const ws lit => Sys2Proof.Machine.execConst ws lit s
  | .testbit ws a n => Sys2Proof.Machine.execTestbit ws a n s
  | .select ws c a b => Sys2Proof.Machine.execSelect ws c a b s
  | .band a b => Sys2Proof.Machine.execBand a b s
  | .bor a b => Sys2Proof.Machine.execBor a b s
  | .bnot a => Sys2Proof.Machine.execBnot a s
  | .lookup ws tsel n => Sys2Proof.Machine.execLookup ws tsel n s

end Sys2Proof.Machine
end

