-- ==== Sys2Proof/Machine/Step.lean ====
section
/-! DEFINITION. One step: the engine takes the oldest event and completes it (R59, R305), or stays idle (R293). -/

namespace Sys2Proof.Machine

/-- One step of the instance. Each command is one step (R311). -/
def step (s : State) : Host.Outcome State Fault Refusal :=
  match takeEvent s with
  | none => .next s
  | some (.transaction p, s') =>
    match decode p with
    | .ok i => exec i s'
    | .error e => .next (takeReject e s')
  | some (.reset inFlight, s') => .next (takeReset inFlight s')

/-- The table word is issued as the next port word. -/
def State.withFetchWord (s : State) (nbits w : Nat) : State := State.issue (tablePortWord nbits w) s

end Sys2Proof.Machine
end

