-- ==== Sys2Proof/Machine/Pseudo.lean ====
section
/-! DEFINITION. The host's duties: packing bytes into words (R52), serializing a digest (R54), and the
pseudo-commands with their expansions (R82). No expansion adds engine state. -/

namespace Sys2Proof.Machine

/-- Bytes as a number, most significant byte first. -/
def beNat (bs : List Byte) : Nat := bs.foldl (fun acc b => 256 * acc + b.toNat) 0

/-- Word `k` of a byte sequence, `N = W/8` bytes a word (R52). -/
def packWord (v : Variant) (m : List Byte) (k : Nat) : Word :=
  BitVec.ofNat 64 (beNat ((m.drop (k * (v.w / 8))).take (v.w / 8)))

/-- The words of a byte sequence whose length is a multiple of `W/8` (R52). A sequence of another length cannot be
packed (R57) and the spec gives no packing for it; here it gives the words of its whole groups of bytes, and the
bytes after them are dropped. DESIGN CHOICE, log entry 21. -/
def packWords (v : Variant) (m : List Byte) : List Word :=
  (List.range (m.length / (v.w / 8))).map (packWord v m)

/-- The bytes of a word of width `W`, most significant first (R54). -/
def wordBytes (v : Variant) (x : Word) : List Byte :=
  (List.range (v.w / 8)).map fun i => BitVec.ofNat 8 (x.toNat >>> (8 * (v.w / 8 - 1 - i)))

/-- The digest bytes: the digest words in order, cut to `DB` bits (R54). -/
def digestBytes (v : Variant) (words : List Word) : List Byte := (words.flatMap (wordBytes v)).take (v.db / 8)

/-- `MSG_IN_SEQ v0, ..., vk` (R82, R181). -/
def msgInSeq (words : List Word) : List Instr := words.map Instr.msgIn

/-- `MSG_IN_BYTES m` (R82), for a length that is a multiple of `W/8`; for another, log entry 21. -/
def msgInBytes (v : Variant) (m : List Byte) : List Instr := msgInSeq (packWords v m)

/-- `DIGEST_ALL` (R82). -/
def digestAll (v : Variant) : List Instr := (List.range v.nd).map fun i => Instr.digestRd (BitVec.ofNat 8 i)

/-- `PAD_ALL L` (R82), with the `n` that `PAD_LEN L` gives. Where `PAD_LEN L` gives none (`L mod 8 != 0`, or a faulted
engine) the spec does not say how the line expands; here it expands with `padLength L` all the same, and the engine
refuses every `PAD_BYTE` of it (R284). DESIGN CHOICE, log entry 22. -/
def padAll (v : Variant) (l : Word) : List Instr :=
  .padLen l :: (List.range (padLength v l.toNat)).map fun i => Instr.padByte (BitVec.ofNat 8 i) l

/-- A message followed by its padding: `m || byte(0) || ... || byte(n(L)-1)`, `L = 8 len(m)` (R167). -/
def paddedMessage (v : Variant) (m : List Byte) : List Byte := m ++ padBytes v (8 * m.length)

/-- `HASH_MSG m` (R82). The spec names the bytes of `PAD_ALL` and does not say whether its commands are issued to get
them; here none is, and the host takes the bytes of R162. DESIGN CHOICE, log entry 23. -/
def hashMsg (v : Variant) (m : List Byte) : List Instr :=
  .msgClear :: (msgInBytes v (paddedMessage v m) ++ .hash :: digestAll v)

end Sys2Proof.Machine
end

