-- ==== Sys2Proof/Safety.lean ====
section
/-! DEFINITION. Runs and their outcome (R314), and the invariant that every step keeps. -/

namespace Sys2Proof.Machine

/-- A response (R35). -/
structure Response where
  ok : Bool
  data : Word
  deriving DecidableEq, Repr

/-- The response registers as the host reads them (R35). -/
def responseOf (s : State) : Response := ⟨s.rspOk, s.rspData⟩

/-- A command as the host issues it (R70): any `CMD` and any `ARG`, one that decodes or one that does not. -/
structure Command where
  cmd : BitVec 16
  arg : Word
  deriving DecidableEq, Repr

/-- The command on its port. -/
def Command.port (c : Command) : PortWord := .command c.cmd c.arg

/-- Commands issued one after another (R63, R314), each one taken by one step: their responses in order, and the
final state. A command that is no instruction takes its fault (R273) and has its response like any other. -/
def runCommands : List Command → State → Option (List Response × State)
  | [], s => some ([], s)
  | c :: cs, s =>
    match step (State.issue c.port s) with
    | .next t => (runCommands cs t).map fun o => (responseOf t :: o.1, o.2)
    | .fault _ => none
    | .refused _ => none

/-- The outcome of a run (R314): the responses and the final state of a finite sequence of commands from reset. -/
def runOutcome (v : Variant) (cap : Nat) (cs : List Command) : Option (List Response × State) :=
  runCommands cs (State.resetOf v cap)

/-- Decoded instructions taken one after another, as R63 composes them: the response of each host command, and the
final state. A backend request is no command, so a run has no response for it (R70, R77). -/
def runAll : List Instr → State → Option (List Response × State)
  | [], s => some ([], s)
  | i :: is, s =>
    match exec i s with
    | .next t =>
      (runAll is t).map fun o => (if i.isCommand then responseOf t :: o.1 else o.1, o.2)
    | .fault _ => none
    | .refused _ => none

/-- A run succeeded when `FAULT = 0` in its final state (R314). -/
def succeeded (s : State) : Bool := !s.fault

/-- Every slot of a file is a word of width `w` on its lane. -/
def slotsFit (w : Nat) (r : Words8 64) : Prop := ∀ i, i < 8 → Word.fits w (slot r i) = true

/-- What holds of an instance in every state a run reaches.
* The capacity is one R3 allows, and the buffer is well formed (R21).
* Every hash word is a word of width `W` (R22), and the held ones are none or the first `NH` (R301, R302).
* `DIGEST_VALID = 1` exactly when the hash words are held (R26).
* The recorded code is 0 exactly while `FAULT = 0`, and is no reserved code (R27, R272).
* `RSP_OK = 0` comes with `RSP_DATA = 0` (R35). -/
structure State.Inv (s : State) : Prop where
  capLegal : Config.bufCapLegal s.bufCap = true
  bufWf : Memory.wf s.variant s.bufCap s.buf = true
  hashFits : slotsFit s.variant.w s.h
  hashHeld : s.hHeld = if s.digestValid then s.variant.nh else 0
  codeZero : s.faultCode = 0#4 ↔ s.fault = false
  codeLegal : s.faultCode.toNat ≤ 10
  refusedData : s.rspOk = false → s.rspData = 0#64

/-- Two states that differ at most in what no command reads (R37, R38): the hidden registers, the hash words
outside the digest view, and every hash word while `DIGEST_VALID = 0`. -/
structure State.SameView (s t : State) : Prop where
  variant : s.variant = t.variant
  bufCap : s.bufCap = t.bufCap
  buf : s.buf = t.buf
  view : s.digestValid = true → ∀ i, i < s.variant.nd →
    digestView s.variant i (slot s.h i) = digestView t.variant i (slot t.h i)
  hHeld : s.hHeld = t.hHeld
  digestValid : s.digestValid = t.digestValid
  fault : s.fault = t.fault
  faultCode : s.faultCode = t.faultCode
  rspOk : s.rspOk = t.rspOk
  rspData : s.rspData = t.rspData
  y : s.y = t.y
  pending : s.pending = t.pending

end Sys2Proof.Machine
end

