-- ==== Sys2Proof/Laws/State.lean ====
section
/-! SUPPORT. One lemma per field and per named update of the state, each true by `rfl`, so that no later proof
unfolds a record update. -/

namespace Sys2Proof.Machine

variable (s : State)

@[simp] theorem respond_variant (ok : Bool) (d : Word) : (respond ok d s).variant = s.variant := rfl
@[simp] theorem respond_bufCap (ok : Bool) (d : Word) : (respond ok d s).bufCap = s.bufCap := rfl
@[simp] theorem respond_buf (ok : Bool) (d : Word) : (respond ok d s).buf = s.buf := rfl
@[simp] theorem respond_h (ok : Bool) (d : Word) : (respond ok d s).h = s.h := rfl
@[simp] theorem respond_hHeld (ok : Bool) (d : Word) : (respond ok d s).hHeld = s.hHeld := rfl
@[simp] theorem respond_hidden (ok : Bool) (d : Word) : (respond ok d s).hidden = s.hidden := rfl
@[simp] theorem respond_digestValid (ok : Bool) (d : Word) : (respond ok d s).digestValid = s.digestValid := rfl
@[simp] theorem respond_fault (ok : Bool) (d : Word) : (respond ok d s).fault = s.fault := rfl
@[simp] theorem respond_faultCode (ok : Bool) (d : Word) : (respond ok d s).faultCode = s.faultCode := rfl
@[simp] theorem respond_rspOk (ok : Bool) (d : Word) : (respond ok d s).rspOk = ok := rfl
@[simp] theorem respond_rspData (ok : Bool) (d : Word) : (respond ok d s).rspData = d := rfl
@[simp] theorem respond_y (ok : Bool) (d : Word) : (respond ok d s).y = s.y := rfl
@[simp] theorem respond_pending (ok : Bool) (d : Word) : (respond ok d s).pending = s.pending := rfl

@[simp] theorem refuse_variant : (refuse s).variant = s.variant := rfl
@[simp] theorem refuse_bufCap : (refuse s).bufCap = s.bufCap := rfl
@[simp] theorem refuse_buf : (refuse s).buf = s.buf := rfl
@[simp] theorem refuse_h : (refuse s).h = s.h := rfl
@[simp] theorem refuse_hHeld : (refuse s).hHeld = s.hHeld := rfl
@[simp] theorem refuse_hidden : (refuse s).hidden = s.hidden := rfl
@[simp] theorem refuse_digestValid : (refuse s).digestValid = s.digestValid := rfl
@[simp] theorem refuse_fault : (refuse s).fault = s.fault := rfl
@[simp] theorem refuse_faultCode : (refuse s).faultCode = s.faultCode := rfl
@[simp] theorem refuse_rspOk : (refuse s).rspOk = false := rfl
@[simp] theorem refuse_rspData : (refuse s).rspData = 0#64 := rfl
@[simp] theorem refuse_y : (refuse s).y = s.y := rfl
@[simp] theorem refuse_pending : (refuse s).pending = s.pending := rfl

@[simp] theorem enterFault_variant (c : FaultCode) : (enterFault c s).variant = s.variant := rfl
@[simp] theorem enterFault_bufCap (c : FaultCode) : (enterFault c s).bufCap = s.bufCap := rfl
@[simp] theorem enterFault_buf (c : FaultCode) : (enterFault c s).buf = s.buf := rfl
@[simp] theorem enterFault_h (c : FaultCode) : (enterFault c s).h = s.h := rfl
@[simp] theorem enterFault_hHeld (c : FaultCode) : (enterFault c s).hHeld = s.hHeld := rfl
@[simp] theorem enterFault_hidden (c : FaultCode) : (enterFault c s).hidden = s.hidden := rfl
@[simp] theorem enterFault_digestValid (c : FaultCode) : (enterFault c s).digestValid = s.digestValid := rfl
@[simp] theorem enterFault_fault (c : FaultCode) : (enterFault c s).fault = true := rfl
@[simp] theorem enterFault_faultCode (c : FaultCode) : (enterFault c s).faultCode = c.bits := rfl
@[simp] theorem enterFault_rspOk (c : FaultCode) : (enterFault c s).rspOk = false := rfl
@[simp] theorem enterFault_rspData (c : FaultCode) : (enterFault c s).rspData = 0#64 := rfl
@[simp] theorem enterFault_y (c : FaultCode) : (enterFault c s).y = s.y := rfl
@[simp] theorem enterFault_pending (c : FaultCode) : (enterFault c s).pending = s.pending := rfl

@[simp] theorem bufAppend_variant (v : Word) : (bufAppend v s).variant = s.variant := rfl
@[simp] theorem bufAppend_bufCap (v : Word) : (bufAppend v s).bufCap = s.bufCap := rfl
@[simp] theorem bufAppend_buf (v : Word) : (bufAppend v s).buf = s.buf ++ [v] := rfl
@[simp] theorem bufAppend_h (v : Word) : (bufAppend v s).h = s.h := rfl
@[simp] theorem bufAppend_hHeld (v : Word) : (bufAppend v s).hHeld = s.hHeld := rfl
@[simp] theorem bufAppend_hidden (v : Word) : (bufAppend v s).hidden = s.hidden := rfl
@[simp] theorem bufAppend_digestValid (v : Word) : (bufAppend v s).digestValid = s.digestValid := rfl
@[simp] theorem bufAppend_fault (v : Word) : (bufAppend v s).fault = s.fault := rfl
@[simp] theorem bufAppend_faultCode (v : Word) : (bufAppend v s).faultCode = s.faultCode := rfl
@[simp] theorem bufAppend_rspOk (v : Word) : (bufAppend v s).rspOk = s.rspOk := rfl
@[simp] theorem bufAppend_rspData (v : Word) : (bufAppend v s).rspData = s.rspData := rfl
@[simp] theorem bufAppend_y (v : Word) : (bufAppend v s).y = s.y := rfl
@[simp] theorem bufAppend_pending (v : Word) : (bufAppend v s).pending = s.pending := rfl

@[simp] theorem bufClear_variant : (bufClear s).variant = s.variant := rfl
@[simp] theorem bufClear_bufCap : (bufClear s).bufCap = s.bufCap := rfl
@[simp] theorem bufClear_buf : (bufClear s).buf = [] := rfl
@[simp] theorem bufClear_h : (bufClear s).h = s.h := rfl
@[simp] theorem bufClear_hHeld : (bufClear s).hHeld = s.hHeld := rfl
@[simp] theorem bufClear_hidden : (bufClear s).hidden = s.hidden := rfl
@[simp] theorem bufClear_digestValid : (bufClear s).digestValid = s.digestValid := rfl
@[simp] theorem bufClear_fault : (bufClear s).fault = s.fault := rfl
@[simp] theorem bufClear_faultCode : (bufClear s).faultCode = s.faultCode := rfl
@[simp] theorem bufClear_rspOk : (bufClear s).rspOk = s.rspOk := rfl
@[simp] theorem bufClear_rspData : (bufClear s).rspData = s.rspData := rfl
@[simp] theorem bufClear_y : (bufClear s).y = s.y := rfl
@[simp] theorem bufClear_pending : (bufClear s).pending = s.pending := rfl

@[simp] theorem setY_variant (x : Word) : (setY x s).variant = s.variant := rfl
@[simp] theorem setY_bufCap (x : Word) : (setY x s).bufCap = s.bufCap := rfl
@[simp] theorem setY_buf (x : Word) : (setY x s).buf = s.buf := rfl
@[simp] theorem setY_h (x : Word) : (setY x s).h = s.h := rfl
@[simp] theorem setY_hHeld (x : Word) : (setY x s).hHeld = s.hHeld := rfl
@[simp] theorem setY_hidden (x : Word) : (setY x s).hidden = s.hidden := rfl
@[simp] theorem setY_digestValid (x : Word) : (setY x s).digestValid = s.digestValid := rfl
@[simp] theorem setY_fault (x : Word) : (setY x s).fault = s.fault := rfl
@[simp] theorem setY_faultCode (x : Word) : (setY x s).faultCode = s.faultCode := rfl
@[simp] theorem setY_rspOk (x : Word) : (setY x s).rspOk = s.rspOk := rfl
@[simp] theorem setY_rspData (x : Word) : (setY x s).rspData = s.rspData := rfl
@[simp] theorem setY_y (x : Word) : (setY x s).y = x := rfl
@[simp] theorem setY_pending (x : Word) : (setY x s).pending = s.pending := rfl

@[simp] theorem takeReset_variant (f : Option PortWord) : (takeReset f s).variant = s.variant := rfl
@[simp] theorem takeReset_bufCap (f : Option PortWord) : (takeReset f s).bufCap = s.bufCap := rfl
@[simp] theorem takeReset_buf (f : Option PortWord) : (takeReset f s).buf = [] := rfl
@[simp] theorem takeReset_h (f : Option PortWord) : (takeReset f s).h = ⟨0#64, 0#64, 0#64, 0#64, 0#64, 0#64, 0#64, 0#64⟩ := rfl
@[simp] theorem takeReset_hHeld (f : Option PortWord) : (takeReset f s).hHeld = 0 := rfl
@[simp] theorem takeReset_hidden (f : Option PortWord) : (takeReset f s).hidden = Hidden.reset := rfl
@[simp] theorem takeReset_digestValid (f : Option PortWord) : (takeReset f s).digestValid = false := rfl
@[simp] theorem takeReset_fault (f : Option PortWord) : (takeReset f s).fault = false := rfl
@[simp] theorem takeReset_faultCode (f : Option PortWord) : (takeReset f s).faultCode = 0#4 := rfl
@[simp] theorem takeReset_rspOk (f : Option PortWord) : (takeReset f s).rspOk = false := rfl
@[simp] theorem takeReset_rspData (f : Option PortWord) : (takeReset f s).rspData = 0#64 := rfl
@[simp] theorem takeReset_y (f : Option PortWord) : (takeReset f s).y = 0#64 := rfl
@[simp] theorem takeReset_pending (f : Option PortWord) : (takeReset f s).pending = s.pending := rfl

@[simp] theorem issue_variant (p : PortWord) : (State.issue p s).variant = s.variant := rfl
@[simp] theorem issue_bufCap (p : PortWord) : (State.issue p s).bufCap = s.bufCap := rfl
@[simp] theorem issue_buf (p : PortWord) : (State.issue p s).buf = s.buf := rfl
@[simp] theorem issue_h (p : PortWord) : (State.issue p s).h = s.h := rfl
@[simp] theorem issue_hHeld (p : PortWord) : (State.issue p s).hHeld = s.hHeld := rfl
@[simp] theorem issue_hidden (p : PortWord) : (State.issue p s).hidden = s.hidden := rfl
@[simp] theorem issue_digestValid (p : PortWord) : (State.issue p s).digestValid = s.digestValid := rfl
@[simp] theorem issue_fault (p : PortWord) : (State.issue p s).fault = s.fault := rfl
@[simp] theorem issue_faultCode (p : PortWord) : (State.issue p s).faultCode = s.faultCode := rfl
@[simp] theorem issue_rspOk (p : PortWord) : (State.issue p s).rspOk = s.rspOk := rfl
@[simp] theorem issue_rspData (p : PortWord) : (State.issue p s).rspData = s.rspData := rfl
@[simp] theorem issue_y (p : PortWord) : (State.issue p s).y = s.y := rfl
@[simp] theorem issue_pending (p : PortWord) : (State.issue p s).pending = .transaction p :: s.pending := rfl

/-! `raiseFault` writes the fault registers and the response alone. -/

@[simp] theorem raiseFault_variant (c : FaultCode) : (raiseFault c s).variant = s.variant := by
  unfold raiseFault; split <;> rfl
@[simp] theorem raiseFault_bufCap (c : FaultCode) : (raiseFault c s).bufCap = s.bufCap := by
  unfold raiseFault; split <;> rfl
@[simp] theorem raiseFault_buf (c : FaultCode) : (raiseFault c s).buf = s.buf := by
  unfold raiseFault; split <;> rfl
@[simp] theorem raiseFault_h (c : FaultCode) : (raiseFault c s).h = s.h := by
  unfold raiseFault; split <;> rfl
@[simp] theorem raiseFault_hHeld (c : FaultCode) : (raiseFault c s).hHeld = s.hHeld := by
  unfold raiseFault; split <;> rfl
@[simp] theorem raiseFault_hidden (c : FaultCode) : (raiseFault c s).hidden = s.hidden := by
  unfold raiseFault; split <;> rfl
@[simp] theorem raiseFault_digestValid (c : FaultCode) : (raiseFault c s).digestValid = s.digestValid := by
  unfold raiseFault; split <;> rfl
@[simp] theorem raiseFault_y (c : FaultCode) : (raiseFault c s).y = s.y := by
  unfold raiseFault; split <;> rfl
@[simp] theorem raiseFault_pending (c : FaultCode) : (raiseFault c s).pending = s.pending := by
  unfold raiseFault; split <;> rfl
@[simp] theorem raiseFault_fault (c : FaultCode) : (raiseFault c s).fault = true := by
  unfold raiseFault; split <;> simp_all
@[simp] theorem raiseFault_rspOk (c : FaultCode) : (raiseFault c s).rspOk = false := by
  unfold raiseFault; split <;> rfl
@[simp] theorem raiseFault_rspData (c : FaultCode) : (raiseFault c s).rspData = 0#64 := by
  unfold raiseFault; split <;> rfl

/-- A faulted engine keeps its first code (R27). -/
theorem raiseFault_of_fault (c : FaultCode) (h : s.fault = true) : raiseFault c s = refuse s := by
  simp [raiseFault, h]

/-- An engine without a fault records the code (R271). -/
theorem raiseFault_of_noFault (c : FaultCode) (h : s.fault = false) : raiseFault c s = enterFault c s := by
  simp [raiseFault, h]

@[simp] theorem resetOf_variant (v : Variant) (c : Nat) : (State.resetOf v c).variant = v := rfl
@[simp] theorem resetOf_bufCap (v : Variant) (c : Nat) : (State.resetOf v c).bufCap = c := rfl
@[simp] theorem resetOf_buf (v : Variant) (c : Nat) : (State.resetOf v c).buf = [] := rfl
@[simp] theorem resetOf_hHeld (v : Variant) (c : Nat) : (State.resetOf v c).hHeld = 0 := rfl
@[simp] theorem resetOf_hidden (v : Variant) (c : Nat) : (State.resetOf v c).hidden = Hidden.reset := rfl
@[simp] theorem resetOf_digestValid (v : Variant) (c : Nat) : (State.resetOf v c).digestValid = false := rfl
@[simp] theorem resetOf_fault (v : Variant) (c : Nat) : (State.resetOf v c).fault = false := rfl
@[simp] theorem resetOf_faultCode (v : Variant) (c : Nat) : (State.resetOf v c).faultCode = 0#4 := rfl
@[simp] theorem resetOf_rspOk (v : Variant) (c : Nat) : (State.resetOf v c).rspOk = false := rfl
@[simp] theorem resetOf_rspData (v : Variant) (c : Nat) : (State.resetOf v c).rspData = 0#64 := rfl
@[simp] theorem resetOf_y (v : Variant) (c : Nat) : (State.resetOf v c).y = 0#64 := rfl
@[simp] theorem resetOf_pending (v : Variant) (c : Nat) : (State.resetOf v c).pending = [] := rfl

end Sys2Proof.Machine
end

