-- ==== Sys2Proof/Laws/Memory.lean ====
section
/-! SUPPORT. The message buffer: reads after appends and clears, and `Memory.wf`, which every buffer operation keeps
and which the reset buffer has. -/

namespace Sys2Proof.Machine

theorem word_width_le (v : Variant) : v.w ≤ 64 := by cases v <;> decide

theorem word_width_cases (v : Variant) : v.w = 32 ∨ v.w = 64 := by cases v <;> decide

/-- A word of width `w` on its lane fits. -/
theorem fits_lane {w k : Nat} (x : BitVec w) (h : w ≤ k) : Word.fits k (lane x) = true := by
  have h1 : x.toNat < 2 ^ k := lt_of_lt_of_le x.isLt (Nat.pow_le_pow_right (by omega) h)
  have h2 : x.toNat % 2 ^ 64 ≤ x.toNat := Nat.mod_le _ _
  simp only [Word.fits, lane, decide_eq_true_eq, BitVec.toNat_setWidth]
  omega

/-- What MSG_IN appends fits the instance's width (R180). -/
theorem fits_appended (v : Variant) (x : Word) : Word.fits v.w (lane (Word.take v.w x)) = true :=
  fits_lane _ (le_refl _)

/-- A lane that fits is the lane of its own low bits. -/
theorem lane_take_of_fits {w : Nat} (x : Word) (h : Word.fits w x = true) : lane (Word.take w x) = x := by
  simp only [Word.fits, decide_eq_true_eq] at h
  apply BitVec.eq_of_toNat_eq
  have := x.isLt
  simp [lane, Word.take, Nat.mod_eq_of_lt h, Nat.mod_eq_of_lt this]

theorem take_lane {w : Nat} (x : BitVec w) (h : w ≤ 64) : Word.take w (lane x) = x := by
  have h1 : x.toNat < 2 ^ 64 := lt_of_lt_of_le x.isLt (Nat.pow_le_pow_right (by omega) h)
  apply BitVec.eq_of_toNat_eq
  simp only [lane, Word.take, BitVec.toNat_setWidth]
  rw [Nat.mod_eq_of_lt h1, Nat.mod_eq_of_lt x.isLt]

theorem bufRead_bufAppend_new (v : Word) (s : State) : bufRead s.count (bufAppend v s) = some v := by
  simp [bufRead, State.count]

theorem bufRead_bufAppend_old (v : Word) (s : State) (k : Nat) (h : k ≠ s.count) :
    bufRead k (bufAppend v s) = bufRead k s := by
  simp only [bufRead, bufAppend_buf, State.count] at *
  by_cases hk : k < s.buf.length
  · rw [List.getElem?_append_left hk]
  · rw [List.getElem?_append_right (by omega), List.getElem?_eq_none (by simp; omega),
      List.getElem?_eq_none (by omega)]

@[simp] theorem bufRead_bufClear (s : State) (k : Nat) : bufRead k (bufClear s) = none := by
  simp [bufRead]

theorem wf_nil (v : Variant) (cap : Nat) : Memory.wf v cap [] = true := by
  simp [Memory.wf]

theorem wf_append (v : Variant) (cap : Nat) (m : Memory) (x : Word) (h : Memory.wf v cap m = true)
    (hc : m.length ≠ cap) (hx : Word.fits v.w x = true) : Memory.wf v cap (m ++ [x]) = true := by
  simp only [Memory.wf, Bool.and_eq_true, decide_eq_true_eq, List.all_append, List.all_cons, List.all_nil,
    Bool.and_true, List.length_append, List.length_cons, List.length_nil] at *
  exact ⟨by omega, h.2, hx⟩

/-- `BufAppend` below capacity keeps the buffer well formed. -/
theorem bufAppend_wf (s : State) (x : Word) (h : Memory.wf s.variant s.bufCap s.buf = true)
    (hc : s.count ≠ s.bufCap) :
    Memory.wf (bufAppend (lane (Word.take s.variant.w x)) s).variant
      (bufAppend (lane (Word.take s.variant.w x)) s).bufCap
      (bufAppend (lane (Word.take s.variant.w x)) s).buf = true :=
  wf_append _ _ _ _ h hc (fits_appended _ _)

/-- `BufClear` keeps the buffer well formed. -/
theorem bufClear_wf (s : State) : Memory.wf (bufClear s).variant (bufClear s).bufCap (bufClear s).buf = true :=
  wf_nil _ _

/-- The reset buffer is well formed. -/
theorem reset_wf : Memory.wf State.reset.variant State.reset.bufCap State.reset.buf = true := wf_nil _ _

end Sys2Proof.Machine
end

