-- ==== Sys2Proof/Laws/Ops.lean ====
section
/-! SUPPORT. One spec lemma per shared operation: everything it can do, said once. -/

namespace Sys2Proof.Machine

/-- The gate (R284): a faulted engine refuses, any other runs the body. -/
theorem unlessFaulted_cases (s : State) (body : State → State) :
    (s.fault = true ∧ unlessFaulted s body = .next (refuse s)) ∨
      (s.fault = false ∧ unlessFaulted s body = .next (body s)) := by
  cases h : s.fault <;> simp [unlessFaulted, h]

theorem unlessFaulted_of_noFault (s : State) (body : State → State) (h : s.fault = false) :
    unlessFaulted s body = .next (body s) := by simp [unlessFaulted, h]

theorem unlessFaulted_of_fault (s : State) (body : State → State) (h : s.fault = true) :
    unlessFaulted s body = .next (refuse s) := by simp [unlessFaulted, h]

/-- A request answers `Y`, or raises `BACKEND_CONTRACT` (R100). -/
theorem answer_cases (ws : WSel) (result : Nat → Option Word) (s : State) :
    (∃ y, answer ws result s = .next (setY y s)) ∨
      answer ws result s = .next (raiseFault .backendContract s) := by
  unfold answer
  cases ws.width?.bind result with
  | none => exact .inr rfl
  | some y => exact .inl ⟨y, rfl⟩

theorem answer_some (ws : WSel) (result : Nat → Option Word) (s : State) (w : Nat) (y : Word)
    (hw : ws.width? = some w) (hy : result w = some y) : answer ws result s = .next (setY y s) := by
  simp [answer, hw, hy]

theorem answer_none (ws : WSel) (result : Nat → Option Word) (s : State) (w : Nat)
    (hw : ws.width? = some w) (hy : result w = none) :
    answer ws result s = .next (raiseFault .backendContract s) := by
  simp [answer, hw, hy]

theorem answer_reserved (result : Nat → Option Word) (s : State) :
    answer .reserved result s = .next (raiseFault .backendContract s) := rfl

/-- A width a request can select is 8, 32 or 64 (R78). -/
theorem width_cases {ws : WSel} {w : Nat} (h : ws.width? = some w) : w = 8 ∨ w = 32 ∨ w = 64 := by
  cases ws <;> simp_all [WSel.width?]

theorem width_le {ws : WSel} {w : Nat} (h : ws.width? = some w) : w ≤ 64 := by
  rcases width_cases h with h | h | h <;> omega

@[simp] theorem ofBits_bits (ws : WSel) : WSel.ofBits ws.bits = ws := by cases ws <;> decide

/-- Slot `i` of the slots of `f`. -/
theorem slot_slotsOf {w : Nat} (f : Nat → BitVec w) (i : Nat) (h : i < 8) : slot (slotsOf f) i = f i := by
  have : i = 0 ∨ i = 1 ∨ i = 2 ∨ i = 3 ∨ i = 4 ∨ i = 5 ∨ i = 6 ∨ i = 7 := by omega
  rcases this with h | h | h | h | h | h | h | h <;> subst h <;> rfl

/-- Two files with the same eight slots are the same file. -/
theorem words8_ext {w : Nat} (r q : Words8 w) (h : ∀ i, i < 8 → slot r i = slot q i) : r = q := by
  have h0 := h 0 (by omega)
  have h1 := h 1 (by omega)
  have h2 := h 2 (by omega)
  have h3 := h 3 (by omega)
  have h4 := h 4 (by omega)
  have h5 := h 5 (by omega)
  have h6 := h 6 (by omega)
  have h7 := h 7 (by omega)
  cases r
  cases q
  simp_all [slot]

/-- A written slot of an overlaid file is the new one. -/
theorem slot_overlay_lt {w n i : Nat} (new old : Words8 w) (h : i < 8) (hn : i < n) :
    slot (overlay n new old) i = slot new i := by
  simp [overlay, slot_slotsOf, h, hn]

/-- A slot past the written prefix is the old one (R6, R22). -/
theorem slot_overlay_ge {w n i : Nat} (new old : Words8 w) (h : i < 8) (hn : n ≤ i) :
    slot (overlay n new old) i = slot old i := by
  simp [overlay, slot_slotsOf, h, Nat.not_lt.mpr hn]

theorem slot_lanes {w : Nat} (r : Words8 w) (i : Nat) (h : i < 8) : slot (lanes r) i = lane (slot r i) :=
  slot_slotsOf _ i h

theorem slot_unlanes {w : Nat} (r : Words8 64) (i : Nat) (h : i < 8) :
    slot (unlanes w r) i = Word.take w (slot r i) := slot_slotsOf _ i h

/-- Reading a hash word that is held (R38). -/
theorem readH_of_held (s : State) (i : Nat) (h : i < s.hHeld) : readH s i = slot s.h i := by
  simp [readH, h]

/-- The algorithm's `NH` and `R` are the variant's (R4, R220). -/
theorem withAlgorithm_nh (v : Variant) : (withAlgorithm v fun _ alg => alg.nh) = v.nh := by cases v <;> rfl

theorem withAlgorithm_rounds (v : Variant) : (withAlgorithm v fun _ alg => alg.rounds) = v.rounds := by
  cases v <;> rfl

theorem nh_le (v : Variant) : v.nh ≤ 8 := by cases v <;> decide

theorem nd_le_nh (v : Variant) : v.nd ≤ v.nh := by cases v <;> decide

end Sys2Proof.Machine
end

