-- ==== Sys2Proof/Laws/HashCore.lean ====
section
/-! SUPPORT. Lemmas about the driver loop of `HASH`: the length and the entries of the schedule, the rounds as an
iteration, and the loop over blocks. -/

namespace Sys2Proof.Machine

variable {w : Nat}

theorem extendSchedule_length (alg : Algorithm w) (n : Nat) (rev : List (BitVec w)) :
    (extendSchedule alg n rev).length = rev.length + n := by
  induction n generalizing rev with
  | zero => rfl
  | succ n ih => rw [extendSchedule, ih]; simp; omega

/-- The schedule has `R` entries (R23). -/
theorem prepMsgSchedule_length (alg : Algorithm w) (block : List (BitVec w)) (hb : block.length = 16)
    (hr : 16 ≤ alg.rounds) : (prepMsgSchedule alg block).length = alg.rounds := by
  simp [prepMsgSchedule, extendSchedule_length, hb]
  omega

/-- Extending only puts new words before the old ones. -/
theorem extendSchedule_suffix (alg : Algorithm w) (n : Nat) (rev : List (BitVec w)) :
    ∃ new, extendSchedule alg n rev = new ++ rev := by
  induction n generalizing rev with
  | zero => exact ⟨[], rfl⟩
  | succ n ih =>
    obtain ⟨new, h⟩ := ih (alg.next (fun i => rev.getD (i - 1) 0#w) :: rev)
    exact ⟨new ++ [alg.next (fun i => rev.getD (i - 1) 0#w)], by rw [extendSchedule, h]; simp⟩

/-- One word more: the schedule up to `n + 1` is the schedule up to `n` and the recurrence's next word. -/
theorem extendSchedule_succ (alg : Algorithm w) (n : Nat) (rev : List (BitVec w)) :
    extendSchedule alg (n + 1) rev =
      alg.next (fun i => (extendSchedule alg n rev).getD (i - 1) 0#w) :: extendSchedule alg n rev := by
  induction n generalizing rev with
  | zero => rfl
  | succ n ih => rw [extendSchedule, ih, ← extendSchedule]

/-- Rounds over a schedule of one word more (R235, R236: in order). -/
theorem workingLoop_append (alg : Algorithm w) (t : Nat) (xs ys : List (BitVec w)) (r : Regs w) :
    workingLoop alg t (xs ++ ys) r = workingLoop alg (t + xs.length) ys (workingLoop alg t xs r) := by
  induction xs generalizing t r with
  | nil => rfl
  | cons x xs ih => simp only [List.cons_append, workingLoop, ih, List.length_cons]; congr 1; omega

/-- Block `j` does not change when words are appended after it (R51). -/
theorem blockOf_append (j : Nat) (xs ys : List (BitVec w)) (h : 16 * (j + 1) ≤ xs.length) :
    blockOf j (xs ++ ys) = blockOf j xs := by
  rw [blockOf, blockOf, List.drop_append_of_le_length (by omega), List.take_append_of_le_length (by simp; omega)]

/-- The blocks before the appended words are processed as before (R185). -/
theorem hashBlocks_append (alg : Algorithm w) (xs ys : List (BitVec w)) (n : Nat) (r : Regs w)
    (h : 16 * n ≤ xs.length) : hashBlocks alg (xs ++ ys) n r = hashBlocks alg xs n r := by
  induction n with
  | zero => rfl
  | succ n ih => rw [hashBlocks, hashBlocks, ih (by omega), blockOf_append n xs ys h]

end Sys2Proof.Machine
end

