-- ==== Sys2Proof/Certificates/Slice0/Obligations.lean ====
section
/-! DEFINITION. The statements for the provers. Each docstring names the rule it formalises. -/

open Sys2Proof Sys2Proof.Machine

namespace Sys2Proof.Machine

/-- The state a fault entry leaves (R271): the code recorded, the response `(0, 0)`, nothing else written. -/
def recordsFault (s : State) (code : BitVec 4) : State :=
  { s with fault := true, faultCode := code, rspOk := false, rspData := 0#64 }

/-- The state a command that completes leaves when it writes its response alone (R35). -/
def responds (s : State) (data : Word) : State := { s with rspOk := true, rspData := data }

/-- The codes an instruction can raise (the table of R272, and R282 for a request). -/
def raisedCodes : Instr → List Nat
  | .msgIn _ => [6, 7]
  | .msgClear => []
  | .hash => [2, 3]
  | .digestRd _ => [4, 5]
  | .statusRd => []
  | .padNeeded _ => []
  | .padLen _ => [8]
  | .padByte _ _ => [8, 9]
  | .and _ _ _ => [10]
  | .or _ _ _ => [10]
  | .xor _ _ _ => [10]
  | .not _ _ => [10]
  | .add _ _ _ => [10]
  | .mul _ _ _ => [10]
  | .shl _ _ _ => [10]
  | .shr _ _ _ => [10]
  | .rotl _ _ _ => [10]
  | .rotr _ _ _ => [10]
  | .const _ _ => [10]
  | .testbit _ _ _ => [10]
  | .select _ _ _ _ => [10]
  | .band _ _ => []
  | .bor _ _ => []
  | .bnot _ => []
  | .lookup _ _ _ => [10]

/-- The commands whose effect is the response alone (R60). -/
def isRead : Instr → Bool
  | .msgIn _ => false
  | .msgClear => false
  | .hash => false
  | .digestRd _ => true
  | .statusRd => true
  | .padNeeded _ => true
  | .padLen _ => true
  | .padByte _ _ => true
  | .and _ _ _ => false
  | .or _ _ _ => false
  | .xor _ _ _ => false
  | .not _ _ => false
  | .add _ _ _ => false
  | .mul _ _ _ => false
  | .shl _ _ _ => false
  | .shr _ _ _ => false
  | .rotl _ _ _ => false
  | .rotr _ _ _ => false
  | .const _ _ => false
  | .testbit _ _ _ => false
  | .select _ _ _ _ => false
  | .band _ _ => false
  | .bor _ _ => false
  | .bnot _ => false
  | .lookup _ _ _ => false

/-- The SHA-1 round function of R133, in the word operators. -/
def fipsF (t : Nat) (x y z : BitVec 32) : BitVec 32 :=
  if t < 20 then (x &&& y) ^^^ (~~~x &&& z)
  else if t < 40 then x ^^^ y ^^^ z
  else if t < 60 then (x &&& y) ^^^ (x &&& z) ^^^ (y &&& z)
  else x ^^^ y ^^^ z

/-- One SHA-1 round as R235 writes it, in the word operators. -/
def fipsRound1 (t : Nat) (k x : BitVec 32) (v : Words8 32) : Words8 32 :=
  { v with
    a := v.a.rotateLeft 5 + fipsF t v.b v.c v.d + v.e + k + x
    b := v.a
    c := v.b.rotateLeft 30
    d := v.c
    e := v.d }

/-- One SHA-2 round as R236 writes it, in the word operators, over the family's big sigmas. -/
def fipsRound2 {w : Nat} (s0 s1 : BitVec w → BitVec w) (k x : BitVec w) (v : Words8 w) : Words8 w where
  a := (v.h + s1 v.e + ((v.e &&& v.f) ^^^ (~~~v.e &&& v.g)) + k + x)
    + (s0 v.a + ((v.a &&& v.b) ^^^ (v.a &&& v.c) ^^^ (v.b &&& v.c)))
  b := v.a
  c := v.b
  d := v.c
  e := v.d + (v.h + s1 v.e + ((v.e &&& v.f) ^^^ (~~~v.e &&& v.g)) + k + x)
  f := v.e
  g := v.f
  h := v.g

end Sys2Proof.Machine

/-! ## Encoding -/

/-- No bit of an encoding is dropped: decoding the encoding of an instruction gives it back, every operand at
every value. -/
def Obligations.DecodeOfEncodeIsTheInstruction : Prop :=
  ∀ i : Instr, decode (encode i) = .ok i

/-- R73 and R75: which command words decode, and by which name the others are rejected; the opcode is checked
first (R283). -/
def Obligations.CommandWordDecodesOrIsRejectedByName : Prop :=
  ∀ (cmd : BitVec 16) (arg : Word),
    ((∃ i, decodeCommand cmd arg = .ok i) ↔
      ((opcOf cmd).toNat ∈ [0x01, 0x02, 0x03, 0x05, 0x10, 0x11] ∧ imm8Of cmd = 0#8) ∨
        (opcOf cmd).toNat ∈ [0x04, 0x12]) ∧
    (decodeCommand cmd arg = .error .illegalOpcode ↔
      (opcOf cmd).toNat ∉ [0x01, 0x02, 0x03, 0x04, 0x05, 0x10, 0x11, 0x12]) ∧
    (decodeCommand cmd arg = .error .immediateNotZero ↔
      (opcOf cmd).toNat ∈ [0x01, 0x02, 0x03, 0x05, 0x10, 0x11] ∧ imm8Of cmd ≠ 0#8)

/-- The decoder forgets nothing it reads: the encoding of what a port word decodes to is that command word with
`ARG` kept or 0, or a request of the same operation and, but for the boolean operations, the same `WSEL`. -/
def Obligations.EncodeOfDecodeKeepsTheWord : Prop :=
  (∀ (cmd : BitVec 16) (arg : Word) (i : Instr), decodeCommand cmd arg = .ok i →
    encode i = .command cmd arg ∨ encode i = .command cmd 0#64) ∧
  (∀ (breq : BitVec 7) (o : ReqOperands) (i : Instr), decodeRequest breq o = .ok i →
    ∃ breq' o', encode i = .request breq' o' ∧ bopOf breq' = bopOf breq ∧
      ((bopOf breq).toNat ∉ [0x0D, 0x0E, 0x0F] → breq' = breq))

/-- R74: `ARG` changes nothing for an opcode that does not read it, neither what is decoded nor what the step does. -/
def Obligations.UnreadArgIsIgnored : Prop :=
  ∀ (cmd : BitVec 16) (arg arg' : Word), (opcOf cmd).toNat ∉ [0x01, 0x10, 0x11, 0x12] →
    decodeCommand cmd arg = decodeCommand cmd arg' ∧
    ∀ (s : State) (rest : List PortEvent),
      step { s with pending := .transaction (.command cmd arg) :: rest } =
        step { s with pending := .transaction (.command cmd arg') :: rest }

/-- Words written out from the field tables of R71, R72, R78 and R79 decode to the instructions they stand
for. -/
def Obligations.WrittenOutWordsDecode : Prop :=
  decode (.command 0b0000001100000100#16 7#64) = .ok (.digestRd 3#8) ∧
  decode (.command 0b0000000000010010#16 0x18#64) = .ok (.padByte 0#8 0x18#64) ∧
  decode (.command 0b0000000000000001#16 0x61626380#64) = .ok (.msgIn 0x61626380#64) ∧
  decode (.request 0b0101001#7 ⟨1#64, 0#64, false, 5#7, 0#64, false⟩) = .ok (.rotr .w32 1#64 5#7) ∧
  decode (.request 0b1010000#7 ⟨0#64, 0#64, false, 79#7, 0#64, true⟩) = .ok (.lookup .w64 true 79#7)

/-! ## Steps -/

/-- A step runs the decoded instruction: when the next event is a port word that decodes to `i`, the step is
`exec i` of the state with the event taken. So does an issued table word; an idle engine keeps its state (R293); and
a reset takes its own event alone (log entry 12). -/
def Obligations.StepRunsTheDecodedInstruction : Prop :=
  (∀ (s : State) (p : PortWord) (i : Instr) (rest : List PortEvent),
    s.pending = .transaction p :: rest → decode p = .ok i → step s = exec i { s with pending := rest }) ∧
  (∀ (s : State) (nbits w : Nat) (i : Instr),
    decodeTableWord nbits w = some i → step (s.withFetchWord nbits w) = exec i s) ∧
  (∀ s : State, s.pending = [] → step s = .next s) ∧
  (∀ (s : State) (f : Option PortWord) (rest : List PortEvent), s.pending = .reset f :: rest →
    ∃ t, step s = .next t ∧ t.pending = rest)

/-- R273, with R75: on an engine with no fault, a command word that selects no row of R72, or has `IMM8 != 0` where
none is taken, records `ILLEGAL_COMMAND`. -/
def Obligations.UndefinedCommandWordRecordsItsFault : Prop :=
  ∀ (s : State) (rest : List PortEvent) (cmd : BitVec 16) (arg : Word), s.fault = false →
    s.pending = .transaction (.command cmd arg) :: rest →
    ((opcOf cmd).toNat ∉ [0x01, 0x02, 0x03, 0x04, 0x05, 0x10, 0x11, 0x12] ∨
      ((opcOf cmd).toNat ∉ [0x04, 0x12] ∧ imm8Of cmd ≠ 0#8)) →
    step s = .next (recordsFault { s with pending := rest } 1#4)

/-- R284: a faulted engine refuses every command word but `0x0005`, which executes as R191 says. -/
def Obligations.FaultedEngineRefusesAllButStatusRead : Prop :=
  ∀ (s : State) (cmd : BitVec 16) (arg : Word) (rest : List PortEvent),
    s.fault = true → s.pending = .transaction (.command cmd arg) :: rest →
    (cmd ≠ 0x0005#16 → step s = .next { s with pending := rest, rspOk := false, rspData := 0#64 }) ∧
    (cmd = 0x0005#16 → step s = .next { s with pending := rest, rspOk := true, rspData := statusWord s })

/-- R312 for the commands: every instruction answers a next state, and so does every step. R312 speaks of commands
only; that a backend request on its own answers a next state, an invalid one and one on a faulted engine included,
is the model's choice (log entries 6, 7 and 8). -/
def Obligations.EveryStepAnswersANextState : Prop :=
  (∀ (i : Instr) (s : State), ∃ t, exec i s = .next t) ∧ (∀ s : State, ∃ t, step s = .next t)

/-! ## Status -/

/-- R33, R34 and R191: `STATUS_RD` completes in every state, a faulted one too, and its response holds every
field of `STATUS`. -/
def Obligations.StatusReadReportsEveryField : Prop :=
  ∀ s : State, ∃ d : Word, exec .statusRd s = .next (responds s d) ∧
    d.getLsbD 0 = s.digestValid ∧
    d.getLsbD 1 = s.fault ∧
    (d.getLsbD 2 = true ↔ 0 < s.count ∧ s.count % 16 = 0) ∧
    (d.getLsbD 3 = true ↔ s.count = s.bufCap) ∧
    d.extractLsb' 4 4 = 0#4 ∧
    d.extractLsb' 8 4 = (if s.fault then s.faultCode else 0#4) ∧
    d.extractLsb' 12 3 = s.variant.ident ∧
    (d.getLsbD 15 = true ↔ s.variant.w = 64) ∧
    d.extractLsb' 16 16 = 0#16 ∧
    (d.extractLsb' 32 32).toNat = s.count % 2 ^ 32

/-- R191, with the identifiers of R2: right after reset `STATUS` shows the variant and nothing else. -/
def Obligations.StatusAfterResetShowsTheVariant : Prop :=
  ∀ (cap : Nat) (v : Variant) (d : Word), Config.bufCapLegal cap = true →
    (v, d) ∈ [(.sha1, 0x0000#64), (.sha224, 0x1000#64), (.sha256, 0x2000#64), (.sha384, 0xB000#64),
      (.sha512, 0xC000#64), (.sha512t224, 0xD000#64), (.sha512t256, 0xE000#64)] →
    exec .statusRd (State.resetOf v cap) = .next (responds (State.resetOf v cap) d)

/-- R28: exactly one of Empty, Buffering and Ready holds, whatever the digest state. -/
def Obligations.BufferStateIsOneOfThree : Prop :=
  ∀ s : State,
    (isEmpty s = true ∧ isBuffering s = false ∧ isReady s = false) ∨
    (isEmpty s = false ∧ isBuffering s = true ∧ isReady s = false) ∨
    (isEmpty s = false ∧ isBuffering s = false ∧ isReady s = true)

/-! ## Buffering -/

/-- R180, R278 and R279: `MSG_IN` checks the operand's range, then the capacity; past both it completes: the word is
appended at index `COUNT`, every other buffered word reads as before, and nothing but the response changes
besides. -/
def Obligations.MsgInFollowsItsRule : Prop :=
  ∀ (s : State) (v : Word), s.fault = false →
    (s.variant.w = 32 → 2 ^ 32 ≤ v.toNat → exec (.msgIn v) s = .next (recordsFault s 6#4)) ∧
    ((s.variant.w = 32 → v.toNat < 2 ^ 32) → s.count = s.bufCap →
      exec (.msgIn v) s = .next (recordsFault s 7#4)) ∧
    ((s.variant.w = 32 → v.toNat < 2 ^ 32) → s.count ≠ s.bufCap →
      ∃ t, exec (.msgIn v) s = .next t ∧
        t = { s with buf := s.buf ++ [v], rspOk := true, rspData := 0#64 } ∧
        t.count = s.count + 1 ∧ bufRead s.count t = some v ∧
        ∀ k, k ≠ s.count → bufRead k t = bufRead k s)

/-- R181: a sequence of well-typed words that fits the capacity is appended in index order, and every `MSG_IN` of it
completes. -/
def Obligations.MsgInSequenceAppendsInOrder : Prop :=
  ∀ (words : List Word) (s : State), s.fault = false → words ≠ [] →
    (∀ v ∈ words, s.variant.w = 32 → v.toNat < 2 ^ 32) → s.count + words.length ≤ s.bufCap →
    runAll (msgInSeq words) s = some (words.map fun _ => ⟨true, 0#64⟩,
      { s with buf := s.buf ++ words, rspOk := true, rspData := 0#64 })

/-- R182: `MSG_CLEAR` completes on an engine with no fault: the buffer is empty, no word of it is readable, the
hash state and `DIGEST_VALID` are unchanged, and a second `MSG_CLEAR` changes nothing. -/
def Obligations.MsgClearEmptiesTheBuffer : Prop :=
  ∀ s : State, s.fault = false →
    ∃ t, exec .msgClear s = .next t ∧ t = { s with buf := [], rspOk := true, rspData := 0#64 } ∧
      t.count = 0 ∧ (∀ k, bufRead k t = none) ∧ exec .msgClear t = .next t

/-! ## Hashing -/

/-- R187, with R183, R186 and R188 in part: `HASH` of a positive multiple of 16 words completes. `DIGEST_VALID` is set, the
first `NH` hash words are those of `hashWords`, a function of the variant and the buffered words alone, the other
hash words are unchanged, and the buffer, the parameters, the fault registers and what is pending are unchanged. -/
def Obligations.HashCompletesWithTheDigestOfTheBuffer : Prop :=
  ∀ s : State, s.fault = false → 0 < s.count → s.count % 16 = 0 →
    ∃ t, exec .hash s = .next t ∧ t.digestValid = true ∧ t.rspOk = true ∧ t.rspData = 0#64 ∧
      (∀ i, i < s.variant.nh → slot t.h i = slot (hashWords s.variant s.buf) i) ∧
      (∀ i, i < 8 → s.variant.nh ≤ i → slot t.h i = slot s.h i) ∧
      t.hHeld = max s.hHeld s.variant.nh ∧
      t.buf = s.buf ∧ (∀ k, bufRead k t = bufRead k s) ∧ t.variant = s.variant ∧ t.bufCap = s.bufCap ∧
      t.fault = s.fault ∧ t.faultCode = s.faultCode ∧ t.y = s.y ∧ t.pending = s.pending

/-- R274, R275 and R184: `HASH` on an empty or an unaligned buffer records its fault and writes nothing else. -/
def Obligations.HashFaultsBeforeAnyWrite : Prop :=
  ∀ s : State, s.fault = false →
    (s.count = 0 → exec .hash s = .next (recordsFault s 2#4)) ∧
    (0 < s.count → s.count % 16 ≠ 0 → exec .hash s = .next (recordsFault s 3#4))

/-- R185 and R220: the hash words of no block are the variant's initial words, and those after one block more are
the compression of that block from those before it. -/
def Obligations.HashChainsBlockByBlock : Prop :=
  ∀ (v : Variant) (i : Nat), i < v.nh →
    slot (hashWords v []) i = v.romEntry true i ∧
    ∀ (words block : List Word), words.length % 16 = 0 → block.length = 16 →
      slot (hashWords v (words ++ block)) i = slot (compress v (hashWords v words) block) i

/-- R231, R234, R235 and R237: one block of SHA-1. The schedule `S` and the working variables `V` of the rule's
recurrences are those the compression goes through. -/
def Obligations.Sha1BlockFollowsTheRoundRule : Prop :=
  ∀ (h : Words8 64) (block : List Word), block.length = 16 →
    ∃ (S : Nat → BitVec 32) (V : Nat → Words8 32),
      (∀ t, t < 16 → S t = (block.getD t 0#64).setWidth 32) ∧
      (∀ t, 16 ≤ t → t < 80 → S t = (S (t - 3) ^^^ S (t - 8) ^^^ S (t - 14) ^^^ S (t - 16)).rotateLeft 1) ∧
      (∀ i, i < 5 → slot (V 0) i = (slot h i).setWidth 32) ∧
      (∀ t, t < 80 → V (t + 1) = fipsRound1 t ((Variant.sha1K.getD (t / 20) 0#64).setWidth 32) (S t) (V t)) ∧
      (∀ i, i < 5 → slot (compress .sha1 h block) i = ((slot h i).setWidth 32 + slot (V 80) i).setWidth 64)

/-- R232, R234, R236 and R237: one block of SHA-224 or SHA-256. -/
def Obligations.Sha2NarrowBlockFollowsTheRoundRule : Prop :=
  ∀ (v : Variant) (h : Words8 64) (block : List Word), v = .sha224 ∨ v = .sha256 → block.length = 16 →
    ∃ (S : Nat → BitVec 32) (V : Nat → Words8 32),
      (∀ t, t < 16 → S t = (block.getD t 0#64).setWidth 32) ∧
      (∀ t, 16 ≤ t → t < 64 →
        S t = smallSigma1_256 (S (t - 2)) + S (t - 7) + smallSigma0_256 (S (t - 15)) + S (t - 16)) ∧
      (∀ i, i < 8 → slot (V 0) i = (slot h i).setWidth 32) ∧
      (∀ t, t < 64 → V (t + 1) =
        fipsRound2 bigSigma0_256 bigSigma1_256 ((Variant.k256.getD t 0#64).setWidth 32) (S t) (V t)) ∧
      (∀ i, i < 8 → slot (compress v h block) i = ((slot h i).setWidth 32 + slot (V 64) i).setWidth 64)

/-- R233, R234, R236 and R237: one block of a variant of the 64-bit family. -/
def Obligations.Sha2WideBlockFollowsTheRoundRule : Prop :=
  ∀ (v : Variant) (h : Words8 64) (block : List Word), v.w = 64 → block.length = 16 →
    ∃ (S : Nat → BitVec 64) (V : Nat → Words8 64),
      (∀ t, t < 16 → S t = block.getD t 0#64) ∧
      (∀ t, 16 ≤ t → t < 80 →
        S t = smallSigma1_512 (S (t - 2)) + S (t - 7) + smallSigma0_512 (S (t - 15)) + S (t - 16)) ∧
      V 0 = h ∧
      (∀ t, t < 80 → V (t + 1) =
        fipsRound2 bigSigma0_512 bigSigma1_512 (Variant.k512.getD t 0#64) (S t) (V t)) ∧
      (∀ i, i < 8 → slot (compress v h block) i = slot h i + slot (V 80) i)

/-- R239: the digest words of a truncating variant are the first words of the full variant's compression of the same
blocks, started from the truncating variant's initial words. -/
def Obligations.TruncatedVariantRunsTheFullCompression : Prop :=
  ∀ (v full : Variant), (v, full) ∈ [(.sha224, .sha256), (.sha384, .sha512), (.sha512t224, .sha512),
      (.sha512t256, .sha512)] →
    ∀ blocks : List Memory, (∀ b ∈ blocks, b.length = 16) →
      hashWords v blocks.flatten = blocks.foldl (compress full) (slotsOf fun i => v.romEntry true i)

/-- R186: a second `HASH` with no command between leaves the same hash words and the same buffer. -/
def Obligations.SecondHashGivesTheSameDigest : Prop :=
  ∀ (s t u : State), exec .hash s = .next t → t.rspOk = true → exec .hash t = .next u →
    u.h = t.h ∧ u.buf = s.buf ∧ u.digestValid = true ∧ u.rspOk = true

/-! ## Digest reads -/

/-- R189, R190, R276 and R277: `DIGEST_RD i` on an engine with no fault. Without a valid digest, and then past the view,
it records its fault; else it completes with the digest view of `H[i]`, and for SHA-512/224 the low half of word 3
reads 0. That the words of a valid digest are held is an invariant (`EveryStepKeepsTheInvariant`). -/
def Obligations.DigestReadFollowsItsRule : Prop :=
  ∀ (s : State) (i : BitVec 8), s.fault = false →
    (s.digestValid = false → exec (.digestRd i) s = .next (recordsFault s 4#4)) ∧
    (s.digestValid = true → s.variant.nd ≤ i.toNat → exec (.digestRd i) s = .next (recordsFault s 5#4)) ∧
    (s.digestValid = true → s.variant.nd ≤ s.hHeld → i.toNat < s.variant.nd →
      ∃ d, exec (.digestRd i) s = .next (responds s d) ∧
        (s.variant = .sha512t224 ∧ i = 3#8 →
          d.extractLsb' 32 32 = (slot s.h 3).extractLsb' 32 32 ∧ d.extractLsb' 0 32 = 0#32) ∧
        (¬(s.variant = .sha512t224 ∧ i = 3#8) → d = slot s.h i.toNat))

/-- R192 and R306: commands other than `HASH` that run without a fault leave every digest read as it was. -/
def Obligations.DigestStaysReadableUntilTheNextHash : Prop :=
  ∀ (is : List Instr) (s t : State) (rs : List Response), (∀ i ∈ is, i ≠ .hash) →
    runAll is s = some (rs, t) → t.fault = false →
    ∀ (k : BitVec 8), ∃ s' t', exec (.digestRd k) s = .next s' ∧ exec (.digestRd k) t = .next t' ∧
      s'.rspOk = t'.rspOk ∧ s'.rspData = t'.rspData

/-- R60: the read commands write the response, and on a fault the fault registers; repeated, they give the same
response and change nothing more. -/
def Obligations.ReadsAreIdempotentAndWriteTheResponse : Prop :=
  ∀ (i : Instr) (s t : State), isRead i = true → exec i s = .next t →
    t = { s with fault := t.fault, faultCode := t.faultCode, rspOk := t.rspOk, rspData := t.rspData } ∧
    (t.rspOk = true → t.fault = s.fault ∧ t.faultCode = s.faultCode) ∧ exec i t = .next t

/-! ## Padding -/

/-- R166: `PAD_NEEDED L` completes for every `L`, with 1 exactly when `L` is 0 or not block-aligned. -/
def Obligations.PadNeededAnswersForEveryLength : Prop :=
  ∀ (s : State) (l : Word), s.fault = false →
    exec (.padNeeded l) s =
      .next (responds s (if l = 0#64 ∨ l.toNat % (if s.variant.w = 64 then 1024 else 512) ≠ 0 then 1#64 else 0#64))

/-- R163, with `n(L)` of R162: `PAD_LEN L` records `PAD_NOT_BYTE` for a length that is not whole bytes; else it completes
with `n(L)`, the fill count `z` computed with the rule's difference as an integer. -/
def Obligations.PadLenRespondsWithTheSuffixLength : Prop :=
  ∀ (s : State) (l : Word) (bytes lfb : Int), s.fault = false →
    ((s.variant.w = 32 ∧ bytes = 64 ∧ lfb = 8) ∨ (s.variant.w = 64 ∧ bytes = 128 ∧ lfb = 16)) →
    (l.toNat % 8 ≠ 0 → exec (.padLen l) s = .next (recordsFault s 8#4)) ∧
    (l.toNat % 8 = 0 → ∃ n : Nat, exec (.padLen l) s = .next (responds s (BitVec.ofNat 64 n)) ∧
      (n : Int) = 1 + (bytes - lfb - 1 - ((l.toNat / 8 : Nat) : Int) % bytes) % bytes + lfb)

/-- R164 and R281, with `byte(i)` of R162: `PAD_BYTE i, L` records `PAD_NOT_BYTE`, then `PAD_INDEX`; else it completes with
byte `i` of the suffix. -/
def Obligations.PadByteRespondsWithTheSuffixByte : Prop :=
  ∀ (s : State) (i : BitVec 8) (l : Word), s.fault = false →
    (l.toNat % 8 ≠ 0 → exec (.padByte i l) s = .next (recordsFault s 8#4)) ∧
    (l.toNat % 8 = 0 → padLength s.variant l.toNat ≤ i.toNat →
      exec (.padByte i l) s = .next (recordsFault s 9#4)) ∧
    (l.toNat % 8 = 0 → i.toNat < padLength s.variant l.toNat →
      ∃ b : BitVec 8, exec (.padByte i l) s = .next (responds s (b.setWidth 64)) ∧
        (i.toNat = 0 → b = 0x80#8) ∧
        (0 < i.toNat → i.toNat < padLength s.variant l.toNat - 8 → b = 0#8) ∧
        (padLength s.variant l.toNat - 8 ≤ i.toNat →
          b.toNat = l.toNat / 256 ^ (padLength s.variant l.toNat - 1 - i.toNat) % 256))

/-- R162 and R167: the padded message is a whole number of blocks, and the suffix is 9 to 72 bytes long, or 17 to
144. -/
def Obligations.PaddedMessageIsWholeBlocks : Prop :=
  ∀ (v : Variant) (l : Nat), l % 8 = 0 →
    (l + 8 * padLength v l) % v.bb = 0 ∧
    (v.w = 32 → 9 ≤ padLength v l ∧ padLength v l ≤ 72) ∧
    (v.w = 64 → 17 ≤ padLength v l ∧ padLength v l ≤ 144)

/-- R161 and R162 agree: the bytes of the suffix are, bit for bit, the suffix of the bit-level definition. -/
def Obligations.SuffixBytesAreTheBitLevelSuffix : Prop :=
  ∀ (v : Variant) (l : Nat), l % 8 = 0 → l < 2 ^ 64 → IsPaddingSuffix v l (bitsOfBytes (padBytes v l))

/-! ## Backend requests -/

/-- R101 to R104: `AND`, `OR`, `XOR` and `NOT` of words of a legal width complete, write `Y` alone, and every bit of `Y` is
the rule's; no bit at or above the width is set. -/
def Obligations.BitwiseRequestsAnswerBitByBit : Prop :=
  ∀ (ws : WSel) (w : Nat) (a b : Word) (s : State), ws.width? = some w → a.toNat < 2 ^ w → b.toNat < 2 ^ w →
    (∃ y, exec (.and ws a b) s = .next { s with y := y } ∧
      ∀ k, y.getLsbD k = (a.getLsbD k && b.getLsbD k)) ∧
    (∃ y, exec (.or ws a b) s = .next { s with y := y } ∧
      ∀ k, y.getLsbD k = (a.getLsbD k || b.getLsbD k)) ∧
    (∃ y, exec (.xor ws a b) s = .next { s with y := y } ∧
      ∀ k, y.getLsbD k = (a.getLsbD k ^^ b.getLsbD k)) ∧
    (∃ y, exec (.not ws a) s = .next { s with y := y } ∧
      ∀ k, y.getLsbD k = (decide (k < w) && !a.getLsbD k))

/-- R105 and R106: `ADD` and `MUL` of words of a legal width complete with the sum and the product modulo `2^w`. -/
def Obligations.AddAndMulAnswerModuloTheWidth : Prop :=
  ∀ (ws : WSel) (w : Nat) (a b : Word) (s : State), ws.width? = some w → a.toNat < 2 ^ w → b.toNat < 2 ^ w →
    (∃ y, exec (.add ws a b) s = .next { s with y := y } ∧ y.toNat = (a.toNat + b.toNat) % 2 ^ w) ∧
    (∃ y, exec (.mul ws a b) s = .next { s with y := y } ∧ y.toNat = (a.toNat * b.toNat) % 2 ^ w)

/-- R107 and R108: `SHL` and `SHR` by an amount below the width complete, filling with zeros. -/
def Obligations.ShiftsAnswerBelowTheWidth : Prop :=
  ∀ (ws : WSel) (w : Nat) (a : Word) (n : BitVec 7) (s : State), ws.width? = some w → a.toNat < 2 ^ w →
    n.toNat < w →
    (∃ y, exec (.shl ws a n) s = .next { s with y := y } ∧ y.toNat = a.toNat * 2 ^ n.toNat % 2 ^ w) ∧
    (∃ y, exec (.shr ws a n) s = .next { s with y := y } ∧ y.toNat = a.toNat / 2 ^ n.toNat)

/-- R109 and R110: `ROTL` and `ROTR` by an amount below the width complete; every bit of `Y` is the operand's bit that
the rotation brings there, and `ROTR(A, N) = ROTL(A, (w - N) mod w)`. -/
def Obligations.RotatesMoveEveryBit : Prop :=
  ∀ (ws : WSel) (w : Nat) (a : Word) (n : BitVec 7) (s : State), ws.width? = some w → a.toNat < 2 ^ w →
    n.toNat < w →
    (∃ y, exec (.rotl ws a n) s = .next { s with y := y } ∧
      ∀ k, y.getLsbD k = (decide (k < w) && a.getLsbD ((k + (w - n.toNat)) % w))) ∧
    (∃ y, exec (.rotr ws a n) s = .next { s with y := y } ∧
      (∀ k, y.getLsbD k = (decide (k < w) && a.getLsbD ((k + n.toNat) % w))) ∧
      exec (.rotl ws a (BitVec.ofNat 7 ((w - n.toNat) % w))) s = .next { s with y := y })

/-- R100 and R107 to R112: an amount or bit index at or above the width, and a literal that does not fit, record
`BACKEND_CONTRACT` and answer no value. -/
def Obligations.OutOfRangeOperandsRaiseBackendContract : Prop :=
  ∀ (ws : WSel) (w : Nat) (a : Word) (n : BitVec 7) (s : State), ws.width? = some w → s.fault = false →
    (w ≤ n.toNat →
      exec (.shl ws a n) s = .next (recordsFault s 10#4) ∧ exec (.shr ws a n) s = .next (recordsFault s 10#4) ∧
      exec (.rotl ws a n) s = .next (recordsFault s 10#4) ∧ exec (.rotr ws a n) s = .next (recordsFault s 10#4) ∧
      exec (.testbit ws a n) s = .next (recordsFault s 10#4)) ∧
    (2 ^ w ≤ a.toNat → exec (.const ws a) s = .next (recordsFault s 10#4))

/-- R111, R112 and R113: `CONST` of a literal that fits, `TESTBIT` of a bit below the width, and `SELECT` of words of
the width complete. -/
def Obligations.ConstTestbitAndSelectAnswer : Prop :=
  ∀ (ws : WSel) (w : Nat) (a b : Word) (s : State), ws.width? = some w → a.toNat < 2 ^ w → b.toNat < 2 ^ w →
    exec (.const ws a) s = .next { s with y := a } ∧
    (∀ n : BitVec 7, n.toNat < w →
      exec (.testbit ws a n) s = .next { s with y := if a.getLsbD n.toNat then 1#64 else 0#64 }) ∧
    exec (.select ws true a b) s = .next { s with y := a } ∧
    exec (.select ws false a b) s = .next { s with y := b }

/-- R114 to R116: the boolean operations complete, whatever `WSEL` the request word carries, with the values of
their truth tables. -/
def Obligations.BooleanRequestsAnswerTheirTruthTables : Prop :=
  ∀ (s : State) (ws : WSel) (o : ReqOperands) (rest : List PortEvent),
    (s.pending = .transaction (.request (breqWord 0x0D#5 ws) o) :: rest →
      step s = .next { s with pending := rest, y := if o.a.getLsbD 0 ∧ o.b.getLsbD 0 then 1#64 else 0#64 }) ∧
    (s.pending = .transaction (.request (breqWord 0x0E#5 ws) o) :: rest →
      step s = .next { s with pending := rest, y := if o.a.getLsbD 0 ∨ o.b.getLsbD 0 then 1#64 else 0#64 }) ∧
    (s.pending = .transaction (.request (breqWord 0x0F#5 ws) o) :: rest →
      step s = .next { s with pending := rest, y := if o.a.getLsbD 0 then 0#64 else 1#64 }) ∧
    (∀ a b : Bool,
      exec (.band a b) s = .next { s with y := if a ∧ b then 1#64 else 0#64 } ∧
      exec (.bor a b) s = .next { s with y := if a ∨ b then 1#64 else 0#64 } ∧
      exec (.bnot a) s = .next { s with y := if a then 0#64 else 1#64 })

/-- R117: `LOOKUP` of the instance's width inside the selected table completes with the table's entry; an index
past it, or another width, records `BACKEND_CONTRACT`. -/
def Obligations.LookupAnswersInsideItsTable : Prop :=
  ∀ (s : State) (ws : WSel) (tsel : Bool) (n : BitVec 7) (len : Nat),
    len = (if tsel then s.variant.nh else if s.variant = .sha1 then 4 else s.variant.rounds) →
    (ws.width? = some s.variant.w → n.toNat < len →
      ∃ y, exec (.lookup ws tsel n) s = .next { s with y := y } ∧
        (if tsel then s.variant.ivt else s.variant.kt)[n.toNat]? = some y) ∧
    (s.fault = false → ws.width? ≠ some s.variant.w ∨ len ≤ n.toNat →
      exec (.lookup ws tsel n) s = .next (recordsFault s 10#4))

/-- R78, R79 and R282 on the request port: `WSEL = 11` of a request that reads it, and a reserved `BOP`, record
`BACKEND_CONTRACT`. That a request on its own enters the fault state is log entry 7. -/
def Obligations.ReservedRequestRaisesBackendContract : Prop :=
  ∀ (s : State) (breq : BitVec 7) (o : ReqOperands) (rest : List PortEvent), s.fault = false →
    s.pending = .transaction (.request breq o) :: rest →
    (breq.extractLsb' 5 2 = 0b11#2 ∧ (bopOf breq).toNat ∉ [0x0D, 0x0E, 0x0F]) ∨ 0x11 ≤ (bopOf breq).toNat →
    step s = .next (recordsFault { s with pending := rest } 10#4)

/-- R100: a request other than `LOOKUP` with valid inputs never fails, and its answer depends on its operands
alone. -/
def Obligations.ValidRequestsArePureFunctions : Prop :=
  ∀ i : Instr, WellFormed i = true → i.isCommand = false → (∀ ws tsel n, i ≠ .lookup ws tsel n) →
    ∃ y, ∀ s, exec i s = .next { s with y := y }

/-! ## Round functions -/

/-- R130 to R132 and R143: the bits of `Ch` and `Maj`, and the identities, at every width. -/
def Obligations.RoundFunctionsObeyTheirIdentities : Prop :=
  ∀ (w : Nat) (x y z : BitVec w),
    (∀ k, k < w → (ch x y z).getLsbD k = if x.getLsbD k then y.getLsbD k else z.getLsbD k) ∧
    (∀ k, k < w → (maj x y z).getLsbD k =
      decide (2 ≤ (x.getLsbD k).toNat + (y.getLsbD k).toNat + (z.getLsbD k).toNat)) ∧
    ch x y y = y ∧ maj x x z = x ∧ maj x y z = maj y x z ∧ maj x y z = maj x z y ∧
    parity x y z = x ^^^ (y ^^^ z) ∧ parity x x z = z

/-- R134 to R141: each sigma is the XOR of the answers of its three backend requests. -/
def Obligations.SigmasAreThreeBackendRequests : Prop :=
  (∀ (s : State) (x : BitVec 32) (p q r : BitVec 7) (f : BitVec 32 → BitVec 32),
    (f = bigSigma0_256 ∧ p = 2#7 ∧ q = 13#7 ∧ r = 22#7) ∨ (f = bigSigma1_256 ∧ p = 6#7 ∧ q = 11#7 ∧ r = 25#7) →
    ∃ y1 y2 y3, exec (.rotr .w32 (x.setWidth 64) p) s = .next { s with y := y1 } ∧
      exec (.rotr .w32 (x.setWidth 64) q) s = .next { s with y := y2 } ∧
      exec (.rotr .w32 (x.setWidth 64) r) s = .next { s with y := y3 } ∧
      (f x).setWidth 64 = y1 ^^^ y2 ^^^ y3) ∧
  (∀ (s : State) (x : BitVec 32) (p q r : BitVec 7) (f : BitVec 32 → BitVec 32),
    (f = smallSigma0_256 ∧ p = 7#7 ∧ q = 18#7 ∧ r = 3#7) ∨ (f = smallSigma1_256 ∧ p = 17#7 ∧ q = 19#7 ∧ r = 10#7) →
    ∃ y1 y2 y3, exec (.rotr .w32 (x.setWidth 64) p) s = .next { s with y := y1 } ∧
      exec (.rotr .w32 (x.setWidth 64) q) s = .next { s with y := y2 } ∧
      exec (.shr .w32 (x.setWidth 64) r) s = .next { s with y := y3 } ∧
      (f x).setWidth 64 = y1 ^^^ y2 ^^^ y3) ∧
  (∀ (s : State) (x : BitVec 64) (p q r : BitVec 7) (f : BitVec 64 → BitVec 64),
    (f = bigSigma0_512 ∧ p = 28#7 ∧ q = 34#7 ∧ r = 39#7) ∨ (f = bigSigma1_512 ∧ p = 14#7 ∧ q = 18#7 ∧ r = 41#7) →
    ∃ y1 y2 y3, exec (.rotr .w64 x p) s = .next { s with y := y1 } ∧
      exec (.rotr .w64 x q) s = .next { s with y := y2 } ∧
      exec (.rotr .w64 x r) s = .next { s with y := y3 } ∧ f x = y1 ^^^ y2 ^^^ y3) ∧
  (∀ (s : State) (x : BitVec 64) (p q r : BitVec 7) (f : BitVec 64 → BitVec 64),
    (f = smallSigma0_512 ∧ p = 1#7 ∧ q = 8#7 ∧ r = 7#7) ∨ (f = smallSigma1_512 ∧ p = 19#7 ∧ q = 61#7 ∧ r = 6#7) →
    ∃ y1 y2 y3, exec (.rotr .w64 x p) s = .next { s with y := y1 } ∧
      exec (.rotr .w64 x q) s = .next { s with y := y2 } ∧
      exec (.shr .w64 x r) s = .next { s with y := y3 } ∧ f x = y1 ^^^ y2 ^^^ y3)

/-! ## Faults and reset -/

/-- R271, with the codes of R272: a fault is precise: the command that raises it records its code and the response
`(0, 0)`, writes nothing else, and the code is one the table gives that command. -/
def Obligations.FaultsArePrecise : Prop :=
  ∀ (i : Instr) (s t : State), i.isCommand = true → exec i s = .next t → s.fault = false → t.fault = true →
    t = recordsFault s t.faultCode ∧ t.faultCode.toNat ∈ raisedCodes i

/-- R27, with R284 and R285: no step but a reset clears `FAULT`, `FAULT_CODE` changes only in the step that sets `FAULT`,
and a faulted engine's hash state and buffer do not change. -/
def Obligations.FirstFaultIsKeptUntilReset : Prop :=
  ∀ s t : State, step s = .next t → (∀ f rest, s.pending ≠ .reset f :: rest) →
    (s.fault = true → t.fault = true ∧ t.faultCode = s.faultCode ∧ t.h = s.h ∧ t.hHeld = s.hHeld ∧
      t.hidden = s.hidden ∧ t.digestValid = s.digestValid ∧ t.buf = s.buf) ∧
    (t.faultCode ≠ s.faultCode → s.fault = false ∧ t.fault = true)

/-- R26: `DIGEST_VALID` after an instruction is 1 exactly when it was 1 before or the instruction is a `HASH` that
completed; a port word that is no instruction leaves it; and a reset clears it. -/
def Obligations.DigestValidTracksACompletedHash : Prop :=
  (∀ (i : Instr) (s t : State), exec i s = .next t →
    (t.digestValid = true ↔ s.digestValid = true ∨ (i = .hash ∧ t.rspOk = true))) ∧
  (∀ (s t : State) (p : PortWord) (e : Reject) (rest : List PortEvent), s.pending = .transaction p :: rest →
    decode p = .error e → step s = .next t → t.digestValid = s.digestValid) ∧
  (∀ (s t : State) (f : Option PortWord) (rest : List PortEvent), s.pending = .reset f :: rest →
    step s = .next t → t.digestValid = false)

/-- What each instruction leaves unchanged, for all twenty-five: the parameters and what is pending always; the buffer
but for `MSG_IN` and `MSG_CLEAR` (R21); the hash state, the hidden registers and `DIGEST_VALID` but for `HASH`
(R22, R26); the backend's result but for a backend request; the fault registers but on a fault. A backend request
writes its result alone, or raises `BACKEND_CONTRACT`; what it does on a faulted engine is the model's choice (log
entry 8). -/
def Obligations.InstructionFrames : Prop :=
  ∀ (i : Instr) (s t : State), exec i s = .next t →
    t.variant = s.variant ∧ t.bufCap = s.bufCap ∧ t.pending = s.pending ∧
    ((∀ v, i ≠ .msgIn v) → i ≠ .msgClear → t.buf = s.buf ∧ ∀ k, bufRead k t = bufRead k s) ∧
    ((∃ v, i = .msgIn v) → ∀ k, k ≠ s.count → bufRead k t = bufRead k s) ∧
    (i ≠ .hash → t.h = s.h ∧ t.hHeld = s.hHeld ∧ t.hidden = s.hidden ∧ t.digestValid = s.digestValid) ∧
    (i.isCommand = true → t.y = s.y) ∧
    (t.rspOk = true → i.isCommand = true → t.fault = s.fault ∧ t.faultCode = s.faultCode) ∧
    (i.isCommand = false → t = { s with y := t.y } ∨
      t = if s.fault then { s with rspOk := false, rspData := 0#64 } else recordsFault s 10#4)

/-- R300, with R287 and R303: a reset leaves the same state whatever command it cuts short, so that command has no
effect and no response: an empty buffer, no valid digest, no fault, no register that holds a value, the parameters
kept, and `STATUS` showing the variant alone. The values of the registers that hold no value are the model's (log
entries 1 and 2) and no clause here says them. -/
def Obligations.ResetLeavesAnEmptyEngine : Prop :=
  ∀ (s : State) (f : Option PortWord) (rest : List PortEvent), s.pending = .reset f :: rest →
    ∃ t, step s = .next t ∧ (∀ g, step { s with pending := .reset g :: rest } = .next t) ∧ t.count = 0 ∧ (∀ k, bufRead k t = none) ∧ t.digestValid = false ∧ t.fault = false ∧
      t.faultCode = 0#4 ∧ t.variant = s.variant ∧ t.bufCap = s.bufCap ∧ t.hHeld = 0 ∧ t.hidden.schedHeld = 0 ∧
      t.hidden.wvHeld = 0 ∧ t.hidden.tHeld = false ∧ t.hidden.t12Held = false ∧ isEmpty t = true ∧
      isDigested t = false ∧
      (16 ≤ s.bufCap → ∃ d, exec .statusRd t = .next (responds t d) ∧
        d.toNat = s.variant.ident.toNat * 2 ^ 12 + (if s.variant.w = 64 then 2 ^ 15 else 0))

/-! ## Invariants -/

/-- Every step keeps the invariant of Safety.lean. -/
def Obligations.EveryStepKeepsTheInvariant : Prop :=
  ∀ s t : State, s.Inv → step s = .next t → t.Inv

/-- The invariant holds after reset, for every instance that R3 allows, and for `State.reset`. -/
def Obligations.ResetMeetsTheInvariant : Prop :=
  (∀ (v : Variant) (cap : Nat), Config.bufCapLegal cap = true → (State.resetOf v cap).Inv) ∧ State.reset.Inv

/-- R302: under SHA-1 no step makes a slot past the fifth of `H` or `WV` hold a value, and none writes such a hash
word, but for a reset. -/
def Obligations.Sha1NeverWritesTheUpperSlots : Prop :=
  ∀ s t : State, s.variant = .sha1 → s.hHeld ≤ 5 → s.hidden.wvHeld ≤ 5 → step s = .next t →
    t.hHeld ≤ 5 ∧ t.hidden.wvHeld ≤ 5 ∧
    ((∀ f rest, s.pending ≠ .reset f :: rest) → ∀ i, 5 ≤ i → i < 8 → slot t.h i = slot s.h i)

/-- R37 and R38: what no command reads is never observable: two states that differ in it alone step to states that
differ in it alone, the response included. -/
def Obligations.HiddenStateIsNeverObservable : Prop :=
  ∀ s t s' : State, s.SameView t → step s = .next s' → ∃ t', step t = .next t' ∧ s'.SameView t'

/-! ## The host's duties -/

/-- R52 and R54: packing a byte sequence into words and serializing the words most-significant byte first gives the
bytes back. -/
def Obligations.PackingLosesNoByte : Prop :=
  ∀ (v : Variant) (m : List Byte), m.length % (v.w / 8) = 0 →
    (packWords v m).length = m.length / (v.w / 8) ∧ (packWords v m).flatMap (wordBytes v) = m

/-- `HASH_MSG m` (R82) on an engine with no fault, when the padded message fits the buffer: every command of it
completes, and the last `ND` responses are the digest view of the hash words of the padded message. -/
def Obligations.HashMsgReturnsTheDigest : Prop :=
  ∀ (s : State) (m : List Byte), s.fault = false → 8 * m.length < 2 ^ 64 →
    (paddedMessage s.variant m).length ≤ s.bufCap * (s.variant.w / 8) →
    ∃ rs t, runAll (hashMsg s.variant m) s = some (rs, t) ∧ t.fault = false ∧ (∀ r ∈ rs, r.ok = true) ∧
      rs.drop (rs.length - s.variant.nd) = (List.range s.variant.nd).map fun i =>
        ⟨true, digestView s.variant i
          (slot (hashWords s.variant (packWords s.variant (paddedMessage s.variant m))) i)⟩

/-! ## Runs -/

/-- R314, with R284: from the reset state of every instance every finite sequence of commands, undefined ones among
them, has an outcome with one response for each command; the run succeeded exactly when `FAULT = 0` at its end; and
once a part of it has ended faulted, the whole is faulted and every later response is a refusal but that of
`STATUS_RD`. -/
def Obligations.EveryRunHasItsOutcome : Prop :=
  (∀ (v : Variant) (cap : Nat) (cs : List Command), ∃ rs t, runOutcome v cap cs = some (rs, t) ∧
    rs.length = cs.length ∧ (succeeded t = true ↔ t.fault = false)) ∧
  (∀ (v : Variant) (cap : Nat) (cs ds : List Command) (rs : List Response) (s : State),
    runOutcome v cap cs = some (rs, s) → s.fault = true →
    ∃ qs t, runOutcome v cap (cs ++ ds) = some (rs ++ qs, t) ∧ qs.length = ds.length ∧ succeeded t = false ∧
      ∀ (k : Nat) (d : Command) (q : Response), ds[k]? = some d → qs[k]? = some q →
        (d.cmd ≠ 0x0005#16 → q = ⟨false, 0#64⟩) ∧ (d.cmd = 0x0005#16 → q = ⟨true, statusWord s⟩))

/-- A run of command words is the run of the instructions they encode, from every state. -/
def Obligations.RunOfEncodedCommandsIsTheInstructionsRun : Prop :=
  ∀ (is : List Instr) (cs : List Command) (s : State), cs.map Command.port = is.map encode →
    runCommands cs s = runAll is s
end

