-- ==== Sys2Proof/Laws/Encoding.lean ====
section
/-! SUPPORT. The fields of a word that is put together from its fields (R71, R78, R81), and back. -/

namespace Sys2Proof

theorem cmdWord_getLsbD (opc imm : BitVec 8) (k : Nat) :
    (cmdWord opc imm).getLsbD k = if k < 8 then opc.getLsbD k else imm.getLsbD (k - 8) :=
  BitVec.getLsbD_append (x := imm) (y := opc)

theorem breqWord_getLsbD (bop : BitVec 5) (ws : WSel) (k : Nat) :
    (breqWord bop ws).getLsbD k = if k < 5 then bop.getLsbD k else ws.bits.getLsbD (k - 5) :=
  BitVec.getLsbD_append (x := ws.bits) (y := bop)

@[simp] theorem opcOf_cmdWord (opc imm : BitVec 8) : opcOf (cmdWord opc imm) = opc := by
  apply BitVec.eq_of_getLsbD_eq
  intro k hk
  simp [opcOf, cmdWord_getLsbD, hk]

@[simp] theorem imm8Of_cmdWord (opc imm : BitVec 8) : imm8Of (cmdWord opc imm) = imm := by
  apply BitVec.eq_of_getLsbD_eq
  intro k hk
  simp [imm8Of, cmdWord_getLsbD, hk]

@[simp] theorem bopOf_breqWord (bop : BitVec 5) (ws : WSel) : bopOf (breqWord bop ws) = bop := by
  apply BitVec.eq_of_getLsbD_eq
  intro k hk
  simp [bopOf, breqWord_getLsbD, hk]

@[simp] theorem wselOf_breqWord (bop : BitVec 5) (ws : WSel) : wselOf (breqWord bop ws) = ws := by
  have h : (breqWord bop ws).extractLsb' 5 2 = ws.bits := by
    apply BitVec.eq_of_getLsbD_eq
    intro k hk
    simp [breqWord_getLsbD, hk]
  rw [wselOf, h]
  cases ws <;> decide

/-- A command word is put together from its own fields. -/
theorem cmdWord_fields (cmd : BitVec 16) : cmdWord (opcOf cmd) (imm8Of cmd) = cmd := by
  apply BitVec.eq_of_getLsbD_eq
  intro k hk
  rw [cmdWord_getLsbD]
  split
  · simp [opcOf, *]
  · have h1 : k - 8 < 8 := by omega
    have h2 : 8 + (k - 8) = k := by omega
    simp [imm8Of, h1, h2]

/-- The bits of a width select with the given bits. -/
theorem bits_ofBits (b : BitVec 2) : (WSel.ofBits b).bits = b := by revert b; decide

/-- A request word is put together from its own fields. -/
theorem breqWord_fields (breq : BitVec 7) : breqWord (bopOf breq) (wselOf breq) = breq := by
  apply BitVec.eq_of_getLsbD_eq
  intro k hk
  rw [breqWord_getLsbD]
  split
  · simp [bopOf, *]
  · have h1 : k - 5 < 2 := by omega
    have h2 : 5 + (k - 5) = k := by omega
    simp [wselOf, bits_ofBits, h1, h2]

/-- The 1-bit operand of its own lane. -/
@[simp] theorem bitOf_boolLane (b : Bool) : bitOf (boolLane b) = b := by cases b <;> decide

/-- An opcode by its number. -/
theorem bitVec8_eq_iff (o : BitVec 8) (n : Nat) (h : n < 256) : o = BitVec.ofNat 8 n ↔ o.toNat = n := by
  constructor
  · intro e
    rw [e, BitVec.toNat_ofNat, Nat.mod_eq_of_lt h]
  · intro e
    apply BitVec.eq_of_toNat_eq
    rw [e, BitVec.toNat_ofNat, Nat.mod_eq_of_lt h]

end Sys2Proof
end

