-- ==== Sys2Proof/Laws/PerInstr.lean ====
section
/-! SUPPORT. The family `EncodingMatchesTable`: the encoding of an instruction is covered by exactly one row of the
opcode table, the row of its own mnemonic. -/

namespace Sys2Proof.Laws.EncodingMatchesTable

/-- Exactly the instruction's own row covers its encoding (R72, R79). -/
def Statement (i : Instr) : Prop :=
  (opcodeTable.filter fun r => r.covers (encode i)).map (fun r => r.mnemonic) = [mnemonicOf i]

/-- A command's rows do not depend on its `ARG`. -/
theorem command_rows (cmd : BitVec 16) (arg : Word) (m : String)
    (h : (opcodeTable.filter fun r => r.covers (.command cmd 0#64)).map (fun r => r.mnemonic) = [m]) :
    (opcodeTable.filter fun r => r.covers (.command cmd arg)).map (fun r => r.mnemonic) = [m] := h

theorem digestRd_rows (k : BitVec 8) :
    (opcodeTable.filter fun r => r.covers (.command (cmdWord 0x04#8 k) 0#64)).map (fun r => r.mnemonic)
      = ["DIGEST_RD"] := by
  revert k; decide +kernel

theorem padByte_rows (k : BitVec 8) :
    (opcodeTable.filter fun r => r.covers (.command (cmdWord 0x12#8 k) 0#64)).map (fun r => r.mnemonic)
      = ["PAD_BYTE"] := by
  revert k; decide +kernel

theorem msgIn (v : Word) : Statement (.msgIn v) := command_rows _ _ "MSG_IN" (by decide)
theorem msgClear : Statement .msgClear := command_rows _ _ "MSG_CLEAR" (by decide)
theorem hash : Statement .hash := command_rows _ _ "HASH" (by decide)
theorem digestRd (k : BitVec 8) : Statement (.digestRd k) := digestRd_rows k
theorem statusRd : Statement .statusRd := command_rows _ _ "STATUS_RD" (by decide)
theorem padNeeded (l : Word) : Statement (.padNeeded l) := command_rows _ _ "PAD_NEEDED" (by decide)
theorem padLen (l : Word) : Statement (.padLen l) := command_rows _ _ "PAD_LEN" (by decide)
theorem padByte (k : BitVec 8) (l : Word) : Statement (.padByte k l) := padByte_rows k

/-- A request word's rows do not depend on its operands. -/
theorem request_rows (bop : BitVec 5) (ws : WSel) (o : ReqOperands) (m : String)
    (h : ∀ u : WSel, (opcodeTable.filter fun r => r.covers (.request (breqWord bop u) ReqOperands.zero)).map
      (fun r => r.mnemonic) = [m]) :
    (opcodeTable.filter fun r => r.covers (.request (breqWord bop ws) o)).map (fun r => r.mnemonic) = [m] := h ws

theorem and (ws : WSel) (a b : Word) : Statement (.and ws a b) :=
  request_rows _ ws _ "AND" (by intro u; cases u <;> decide)
theorem or (ws : WSel) (a b : Word) : Statement (.or ws a b) :=
  request_rows _ ws _ "OR" (by intro u; cases u <;> decide)
theorem xor (ws : WSel) (a b : Word) : Statement (.xor ws a b) :=
  request_rows _ ws _ "XOR" (by intro u; cases u <;> decide)
theorem not (ws : WSel) (a : Word) : Statement (.not ws a) :=
  request_rows _ ws _ "NOT" (by intro u; cases u <;> decide)
theorem add (ws : WSel) (a b : Word) : Statement (.add ws a b) :=
  request_rows _ ws _ "ADD" (by intro u; cases u <;> decide)
theorem mul (ws : WSel) (a b : Word) : Statement (.mul ws a b) :=
  request_rows _ ws _ "MUL" (by intro u; cases u <;> decide)
theorem shl (ws : WSel) (a : Word) (n : BitVec 7) : Statement (.shl ws a n) :=
  request_rows _ ws _ "SHL" (by intro u; cases u <;> decide)
theorem shr (ws : WSel) (a : Word) (n : BitVec 7) : Statement (.shr ws a n) :=
  request_rows _ ws _ "SHR" (by intro u; cases u <;> decide)
theorem rotl (ws : WSel) (a : Word) (n : BitVec 7) : Statement (.rotl ws a n) :=
  request_rows _ ws _ "ROTL" (by intro u; cases u <;> decide)
theorem rotr (ws : WSel) (a : Word) (n : BitVec 7) : Statement (.rotr ws a n) :=
  request_rows _ ws _ "ROTR" (by intro u; cases u <;> decide)
theorem const (ws : WSel) (lit : Word) : Statement (.const ws lit) :=
  request_rows _ ws _ "CONST" (by intro u; cases u <;> decide)
theorem testbit (ws : WSel) (a : Word) (n : BitVec 7) : Statement (.testbit ws a n) :=
  request_rows _ ws _ "TESTBIT" (by intro u; cases u <;> decide)
theorem select (ws : WSel) (c : Bool) (a b : Word) : Statement (.select ws c a b) :=
  request_rows _ ws _ "SELECT" (by intro u; cases u <;> decide)
theorem band (a b : Bool) : Statement (.band a b) :=
  request_rows _ .w8 _ "BAND" (by intro u; cases u <;> decide)
theorem bor (a b : Bool) : Statement (.bor a b) :=
  request_rows _ .w8 _ "BOR" (by intro u; cases u <;> decide)
theorem bnot (a : Bool) : Statement (.bnot a) :=
  request_rows _ .w8 _ "BNOT" (by intro u; cases u <;> decide)
theorem lookup (ws : WSel) (tsel : Bool) (n : BitVec 7) : Statement (.lookup ws tsel n) :=
  request_rows _ ws _ "LOOKUP" (by intro u; cases u <;> decide)

end Sys2Proof.Laws.EncodingMatchesTable
end

