-- ==== Sys2Proof/Laws/Step.lean ====
section
/-! SUPPORT. What each meaning can do, said once (the three classes of outcome of a command, and the two of a request),
and what a step can do. -/

namespace Sys2Proof.Machine

/-! `HASH` writes the hash words, the hidden registers and `DIGEST_VALID` alone. -/

@[simp] theorem hashBuffer_variant (s : State) : (hashBuffer s).variant = s.variant := by
  unfold hashBuffer withAlgorithm; split <;> rfl
@[simp] theorem hashBuffer_bufCap (s : State) : (hashBuffer s).bufCap = s.bufCap := by
  unfold hashBuffer withAlgorithm; split <;> rfl
@[simp] theorem hashBuffer_buf (s : State) : (hashBuffer s).buf = s.buf := by
  unfold hashBuffer withAlgorithm; split <;> rfl
@[simp] theorem hashBuffer_digestValid (s : State) : (hashBuffer s).digestValid = true := by
  unfold hashBuffer withAlgorithm; split <;> rfl
@[simp] theorem hashBuffer_fault (s : State) : (hashBuffer s).fault = s.fault := by
  unfold hashBuffer withAlgorithm; split <;> rfl
@[simp] theorem hashBuffer_faultCode (s : State) : (hashBuffer s).faultCode = s.faultCode := by
  unfold hashBuffer withAlgorithm; split <;> rfl
@[simp] theorem hashBuffer_rspOk (s : State) : (hashBuffer s).rspOk = s.rspOk := by
  unfold hashBuffer withAlgorithm; split <;> rfl
@[simp] theorem hashBuffer_rspData (s : State) : (hashBuffer s).rspData = s.rspData := by
  unfold hashBuffer withAlgorithm; split <;> rfl
@[simp] theorem hashBuffer_y (s : State) : (hashBuffer s).y = s.y := by
  unfold hashBuffer withAlgorithm; split <;> rfl
@[simp] theorem hashBuffer_pending (s : State) : (hashBuffer s).pending = s.pending := by
  unfold hashBuffer withAlgorithm; split <;> rfl
@[simp] theorem hashBuffer_hHeld (s : State) : (hashBuffer s).hHeld = max s.hHeld s.variant.nh := by
  unfold hashBuffer withAlgorithm; split <;> simp_all <;> rfl

/-- The slots past `NH` are not written (R22). -/
theorem slot_hashBuffer_ge (s : State) (i : Nat) (h : i < 8) (hn : s.variant.nh ≤ i) :
    slot (hashBuffer s).h i = slot s.h i := by
  unfold hashBuffer withAlgorithm
  split <;> rename_i hv <;> rw [hv] at hn <;> exact slot_overlay_ge _ _ h hn

/-- What a meaning does with a command it does not refuse, by its body's outcome. -/
inductive CommandOutcome (s : State) : State → Prop where
  /-- The command was refused (R284). -/
  | refused : s.fault = true → CommandOutcome s (refuse s)
  /-- The command raised a fault (R271). -/
  | faulted (c : FaultCode) : s.fault = false → CommandOutcome s (enterFault c s)
  /-- The command responded and wrote nothing else (R60). -/
  | read (d : Word) : CommandOutcome s (respond true d s)
  /-- `MSG_IN` appended a word below capacity (R180). -/
  | appended (v : Word) : s.fault = false → s.count ≠ s.bufCap → wordTyped s.variant v = true →
      CommandOutcome s (respond true 0#64 (bufAppend (lane (Word.take s.variant.w v)) s))
  /-- `MSG_CLEAR` emptied the buffer (R182). -/
  | cleared : s.fault = false → CommandOutcome s (respond true 0#64 (bufClear s))
  /-- `HASH` completed (R183). -/
  | hashed : s.fault = false → s.count ≠ 0 → s.count % 16 = 0 →
      CommandOutcome s (respond true 0#64 (hashBuffer s))

theorem execMsgIn_outcome (v : Word) (s : State) : ∃ t, execMsgIn v s = .next t ∧ CommandOutcome s t := by
  rcases unlessFaulted_cases s fun s =>
    if wordTyped s.variant v = false then raiseFault .operandRange s
    else if s.count = s.bufCap then raiseFault .bufferFull s
    else respond true 0#64 (bufAppend (lane (Word.take s.variant.w v)) s) with ⟨h, e⟩ | ⟨h, e⟩
  · exact ⟨_, e, .refused h⟩
  · refine ⟨_, e, ?_⟩
    split
    · rw [raiseFault_of_noFault _ _ h]; exact .faulted _ h
    · split
      · rw [raiseFault_of_noFault _ _ h]; exact .faulted _ h
      · rename_i h1 h2; exact .appended v h h2 (by simpa using h1)

theorem execMsgClear_outcome (s : State) : ∃ t, execMsgClear s = .next t ∧ CommandOutcome s t := by
  rcases unlessFaulted_cases s fun s => respond true 0#64 (bufClear s) with ⟨h, e⟩ | ⟨h, e⟩
  · exact ⟨_, e, .refused h⟩
  · exact ⟨_, e, .cleared h⟩

theorem execHash_outcome (s : State) : ∃ t, execHash s = .next t ∧ CommandOutcome s t := by
  rcases unlessFaulted_cases s fun s =>
    if s.count = 0 then raiseFault .hashEmpty s
    else if s.count % 16 ≠ 0 then raiseFault .hashUnaligned s
    else respond true 0#64 (hashBuffer s) with ⟨h, e⟩ | ⟨h, e⟩
  · exact ⟨_, e, .refused h⟩
  · refine ⟨_, e, ?_⟩
    split
    · rw [raiseFault_of_noFault _ _ h]; exact .faulted _ h
    · split
      · rw [raiseFault_of_noFault _ _ h]; exact .faulted _ h
      · rename_i h1 h2; exact .hashed h h1 (by simpa using h2)

theorem execDigestRd_outcome (i : BitVec 8) (s : State) : ∃ t, execDigestRd i s = .next t ∧ CommandOutcome s t := by
  rcases unlessFaulted_cases s fun s =>
    if s.digestValid = false then raiseFault .digestNotValid s
    else if s.variant.nd ≤ i.toNat then raiseFault .digestIndex s
    else respond true (digestView s.variant i.toNat (readH s i.toNat)) s with ⟨h, e⟩ | ⟨h, e⟩
  · exact ⟨_, e, .refused h⟩
  · refine ⟨_, e, ?_⟩
    split
    · rw [raiseFault_of_noFault _ _ h]; exact .faulted _ h
    · split
      · rw [raiseFault_of_noFault _ _ h]; exact .faulted _ h
      · exact .read _

theorem execStatusRd_outcome (s : State) : ∃ t, execStatusRd s = .next t ∧ CommandOutcome s t :=
  ⟨_, rfl, .read _⟩

theorem execPadNeeded_outcome (l : Word) (s : State) : ∃ t, execPadNeeded l s = .next t ∧ CommandOutcome s t := by
  rcases unlessFaulted_cases s fun s => respond true (boolLane (padIsNeeded s.variant l.toNat)) s
    with ⟨h, e⟩ | ⟨h, e⟩
  · exact ⟨_, e, .refused h⟩
  · exact ⟨_, e, .read _⟩

theorem execPadLen_outcome (l : Word) (s : State) : ∃ t, execPadLen l s = .next t ∧ CommandOutcome s t := by
  rcases unlessFaulted_cases s fun s =>
    if l.toNat % 8 ≠ 0 then raiseFault .padNotByte s
    else respond true (BitVec.ofNat 64 (padLength s.variant l.toNat)) s with ⟨h, e⟩ | ⟨h, e⟩
  · exact ⟨_, e, .refused h⟩
  · refine ⟨_, e, ?_⟩
    split
    · rw [raiseFault_of_noFault _ _ h]; exact .faulted _ h
    · exact .read _

theorem execPadByte_outcome (i : BitVec 8) (l : Word) (s : State) :
    ∃ t, execPadByte i l s = .next t ∧ CommandOutcome s t := by
  rcases unlessFaulted_cases s fun s =>
    if l.toNat % 8 ≠ 0 then raiseFault .padNotByte s
    else if padLength s.variant l.toNat ≤ i.toNat then raiseFault .padIndex s
    else respond true (lane (padByteAt s.variant l.toNat i.toNat)) s with ⟨h, e⟩ | ⟨h, e⟩
  · exact ⟨_, e, .refused h⟩
  · refine ⟨_, e, ?_⟩
    split
    · rw [raiseFault_of_noFault _ _ h]; exact .faulted _ h
    · split
      · rw [raiseFault_of_noFault _ _ h]; exact .faulted _ h
      · exact .read _

/-- What a backend request does (R100). -/
inductive RequestOutcome (s : State) : State → Prop where
  /-- The request answered `Y`. -/
  | answered (y : Word) : RequestOutcome s (setY y s)
  /-- The request was a contract violation (R282). -/
  | violated : RequestOutcome s (raiseFault .backendContract s)

theorem answer_outcome (ws : WSel) (result : Nat → Option Word) (s : State) :
    ∃ t, answer ws result s = .next t ∧ RequestOutcome s t := by
  rcases answer_cases ws result s with ⟨y, e⟩ | e
  · exact ⟨_, e, .answered y⟩
  · exact ⟨_, e, .violated⟩

theorem answerBool_outcome (b : Bool) (s : State) : ∃ t, answerBool b s = .next t ∧ RequestOutcome s t :=
  ⟨_, rfl, .answered _⟩

/-- What an event can do: it is the one inversion lemma of the step function. -/
theorem step_cases (s : State) :
    (s.pending = [] ∧ step s = .next s) ∨
    (∃ p rest i, s.pending = .transaction p :: rest ∧ decode p = .ok i ∧
      step s = exec i { s with pending := rest }) ∨
    (∃ p rest e, s.pending = .transaction p :: rest ∧ decode p = .error e ∧
      step s = .next (takeReject e { s with pending := rest })) ∨
    (∃ f rest, s.pending = .reset f :: rest ∧ step s = .next (takeReset f { s with pending := rest })) := by
  cases hp : s.pending with
  | nil => left; simp [step, takeEvent, hp]
  | cons e rest =>
    cases e with
    | reset f => right; right; right; exact ⟨f, rest, rfl, by simp [step, takeEvent, hp]⟩
    | transaction p =>
      right
      cases hd : decode p with
      | ok i => left; exact ⟨p, rest, i, rfl, hd, by simp [step, takeEvent, hp, hd]⟩
      | error r => right; left; exact ⟨p, rest, r, rfl, hd, by simp [step, takeEvent, hp, hd]⟩

end Sys2Proof.Machine
end

