-- ==== Sys2Proof/Laws/Run.lean ====
section
/-! SUPPORT. Runs: what issuing one port word does, and how runs compose. -/

namespace Sys2Proof.Machine

/-- An issued word that decodes runs as its instruction, on the state it was issued to. -/
theorem step_issue_ok {p : PortWord} {i : Instr} (h : decode p = .ok i) (s : State) :
    step (State.issue p s) = exec i s := by simp [step, takeEvent, State.issue, h]

/-- An issued word that is no instruction takes its fault. -/
theorem step_issue_error {p : PortWord} {e : Reject} (h : decode p = .error e) (s : State) :
    step (State.issue p s) = .next (takeReject e s) := by simp [step, takeEvent, State.issue, h]

@[simp] theorem runCommands_nil (s : State) : runCommands [] s = some ([], s) := rfl

/-- A run whose first command answers `t` goes on from `t`. -/
theorem runCommands_cons {c : Command} {s t : State} (h : step (State.issue c.port s) = .next t) (cs : List Command) :
    runCommands (c :: cs) s = (runCommands cs t).map fun o => (responseOf t :: o.1, o.2) := by
  simp [runCommands, h]

@[simp] theorem runAll_nil (s : State) : runAll [] s = some ([], s) := rfl

/-- A run whose first instruction answers `t` goes on from `t`. -/
theorem runAll_cons {i : Instr} {s t : State} (h : exec i s = .next t) (is : List Instr) :
    runAll (i :: is) s =
      (runAll is t).map fun o => (if i.isCommand then responseOf t :: o.1 else o.1, o.2) := by
  simp [runAll, h]

/-- A run of two parts is the run of the second from the end of the first. -/
theorem runCommands_append {cs : List Command} {s t : State} {rs : List Response}
    (h : runCommands cs s = some (rs, t)) (ds : List Command) :
    runCommands (cs ++ ds) s = (runCommands ds t).map fun o => (rs ++ o.1, o.2) := by
  induction cs generalizing s rs with
  | nil => cases h; cases hd : runCommands ds t <;> simp [hd]
  | cons c cs ih =>
    cases hc : step (State.issue c.port s) with
    | next u =>
      rw [runCommands_cons hc] at h
      obtain ⟨⟨qs, t'⟩, hq, e⟩ := Option.map_eq_some_iff.1 h
      cases e
      rw [List.cons_append, runCommands_cons hc, ih hq, Option.map_map]
      rfl
    | fault f => simp [runCommands, hc] at h
    | refused r => simp [runCommands, hc] at h

end Sys2Proof.Machine
end

