-- ==== Sys2Proof/Tests/Slice0.lean ====
section
/-! SUPPORT. Tests: the well-formedness smoke test, one word of each constructor written out from its field table,
one-step tests with the values of 95_test_vectors.md, cross-checks of the tables, and for each statement that has
hypotheses a witness that meets them. -/

open Sys2Proof Sys2Proof.Machine

namespace Sys2Proof.Tests

/-! ## Helpers -/

/-- The state an instruction leaves. -/
def after (i : Instr) (s : State) : State :=
  match exec i s with
  | .next t => t
  | .fault _ => s
  | .refused _ => s

/-- The response it leaves. -/
def resp (i : Instr) (s : State) : Bool × Word := ((after i s).rspOk, (after i s).rspData)

/-- The backend result it leaves. -/
def yOf (i : Instr) (s : State) : Word := (after i s).y

/-- The fault state it leaves. -/
def faultOf (i : Instr) (s : State) : Bool × Nat := ((after i s).fault, (after i s).faultCode.toNat)

/-- The state one step leaves. -/
def stepped (s : State) : State :=
  match step s with
  | .next t => t
  | .fault _ => s
  | .refused _ => s

/-- An instance right after reset, with words in its buffer. -/
def holding (v : Variant) (cap : Nat) (m : Memory) : State := { State.resetOf v cap with buf := m }

/-- The padded block of "abc" (95_test_vectors.md sections 1.1 and 2.5). -/
def abc (v : Variant) : Memory :=
  (if v.wide then 0x6162638000000000#64 else 0x61626380#64) :: (List.replicate 14 0#64 ++ [0x18#64])

/-- `hashed` of 95_test_vectors.md section 2.4. -/
def hashed (v : Variant) : State := after .hash (holding v 64 (abc v))

/-- The two blocks of the 56-byte message (95_test_vectors.md section 2.5). -/
def twoBlocks : Memory :=
  [0x61626364#64, 0x62636465#64, 0x63646566#64, 0x64656667#64, 0x65666768#64, 0x66676869#64, 0x6768696A#64,
   0x68696A6B#64, 0x696A6B6C#64, 0x6A6B6C6D#64, 0x6B6C6D6E#64, 0x6C6D6E6F#64, 0x6D6E6F70#64, 0x6E6F7071#64,
   0x80000000#64, 0#64] ++ (List.replicate 15 0#64 ++ [0x1C0#64])

/-- A faulted instance: `HASH_EMPTY` after reset. -/
def faulted : State := after .hash State.reset

/-- An instance with a valid digest mark and every hash word held. -/
def valid (v : Variant) : State := { State.resetOf v 64 with digestValid := true, hHeld := v.nh }

/-- The next event is this one. -/
def awaiting (e : PortEvent) (s : State) : State := { s with pending := [e] }

theorem next_after {i : Instr} {s : State} (h : ∃ t, exec i s = .next t) : exec i s = .next (after i s) := by
  obtain ⟨t, h⟩ := h
  simp [after, h]

theorem hash_next (s : State) : exec .hash s = .next (after .hash s) :=
  next_after ((execHash_outcome s).imp fun _ h => h.1)

/-! ## Well-formedness: each check refuses an ill-formed term -/

theorem test_wf_reserved_width : WellFormed (.add .reserved 1#64 1#64) = false := by decide
theorem test_wf_operand_a_too_wide : WellFormed (.xor .w8 0x100#64 0#64) = false := by decide
theorem test_wf_operand_b_too_wide : WellFormed (.and .w32 0#64 0x100000000#64) = false := by decide
theorem test_wf_select_operand_too_wide : WellFormed (.select .w8 true 0#64 0x100#64) = false := by decide
theorem test_wf_amount_at_the_width : WellFormed (.rotr .w32 1#64 32#7) = false := by decide
theorem test_wf_bit_index_at_the_width : WellFormed (.testbit .w64 1#64 64#7) = false := by decide
theorem test_wf_literal_too_wide : WellFormed (.const .w8 0x100#64) = false := by decide
theorem test_wf_lookup_width : WellFormed (.lookup .w8 false 0#7) = false := by decide
theorem test_wf_lookup_index : WellFormed (.lookup .w64 false 80#7) = false := by decide
theorem test_wf_admits_the_edges :
    WellFormed (.lookup .w64 false 79#7) = true ∧ WellFormed (.rotr .w8 0xFF#64 7#7) = true ∧
      WellFormed (.const .w32 0xFFFFFFFF#64) = true := by decide

/-! ## Decoding: each constructor's word, written out bit by bit (R71, R72, R78, R79) -/

/-- Operand lanes: `A`, `B`, `C`, `N`, `N'`, `TSEL`. -/
def lanesOf (a b : Word) (c : Bool) (n : BitVec 7) (lit : Word) (tsel : Bool) : ReqOperands := ⟨a, b, c, n, lit, tsel⟩

theorem test_decode_msgIn :
    decode (.command 0b0000000000000001#16 0x61626380#64) = .ok (.msgIn 0x61626380#64) := by decide
theorem test_decode_msgClear : decode (.command 0b0000000000000010#16 5#64) = .ok .msgClear := by decide
theorem test_decode_hash : decode (.command 0b0000000000000011#16 5#64) = .ok .hash := by decide
theorem test_decode_digestRd : decode (.command 0b0000001100000100#16 5#64) = .ok (.digestRd 3#8) := by decide
theorem test_decode_statusRd : decode (.command 0b0000000000000101#16 5#64) = .ok .statusRd := by decide
theorem test_decode_padNeeded :
    decode (.command 0b0000000000010000#16 0x18#64) = .ok (.padNeeded 0x18#64) := by decide
theorem test_decode_padLen : decode (.command 0b0000000000010001#16 0x18#64) = .ok (.padLen 0x18#64) := by decide
theorem test_decode_padByte :
    decode (.command 0b0011110000010010#16 0x18#64) = .ok (.padByte 60#8 0x18#64) := by decide
theorem test_decode_and :
    decode (.request 0b0100000#7 (lanesOf 1 2 true 3 4 true)) = .ok (.and .w32 1#64 2#64) := by decide
theorem test_decode_or :
    decode (.request 0b0000001#7 (lanesOf 1 2 true 3 4 true)) = .ok (.or .w8 1#64 2#64) := by decide
theorem test_decode_xor :
    decode (.request 0b1000010#7 (lanesOf 1 2 true 3 4 true)) = .ok (.xor .w64 1#64 2#64) := by decide
theorem test_decode_not :
    decode (.request 0b0100011#7 (lanesOf 1 2 true 3 4 true)) = .ok (.not .w32 1#64) := by decide
theorem test_decode_add :
    decode (.request 0b0100100#7 (lanesOf 1 2 true 3 4 true)) = .ok (.add .w32 1#64 2#64) := by decide
theorem test_decode_mul :
    decode (.request 0b1100101#7 (lanesOf 1 2 true 3 4 true)) = .ok (.mul .reserved 1#64 2#64) := by decide
theorem test_decode_shl :
    decode (.request 0b0000110#7 (lanesOf 1 2 true 3 4 true)) = .ok (.shl .w8 1#64 3#7) := by decide
theorem test_decode_shr :
    decode (.request 0b1000111#7 (lanesOf 1 2 true 3 4 true)) = .ok (.shr .w64 1#64 3#7) := by decide
theorem test_decode_rotl :
    decode (.request 0b0101000#7 (lanesOf 1 2 true 3 4 true)) = .ok (.rotl .w32 1#64 3#7) := by decide
theorem test_decode_rotr :
    decode (.request 0b0101001#7 (lanesOf 1 2 true 3 4 true)) = .ok (.rotr .w32 1#64 3#7) := by decide
theorem test_decode_const :
    decode (.request 0b0101010#7 (lanesOf 1 2 true 3 4 true)) = .ok (.const .w32 4#64) := by decide
theorem test_decode_testbit :
    decode (.request 0b1001011#7 (lanesOf 1 2 true 3 4 true)) = .ok (.testbit .w64 1#64 3#7) := by decide
theorem test_decode_select :
    decode (.request 0b0101100#7 (lanesOf 1 2 true 3 4 true)) = .ok (.select .w32 true 1#64 2#64) := by decide
theorem test_decode_band :
    decode (.request 0b0001101#7 (lanesOf 1 2 true 3 4 true)) = .ok (.band true false) := by decide
theorem test_decode_bor :
    decode (.request 0b0001110#7 (lanesOf 0 1 true 3 4 true)) = .ok (.bor false true) := by decide
theorem test_decode_bnot :
    decode (.request 0b0001111#7 (lanesOf 1 2 true 3 4 true)) = .ok (.bnot true) := by decide
theorem test_decode_lookup :
    decode (.request 0b1010000#7 (lanesOf 1 2 true 79 4 true)) = .ok (.lookup .w64 true 79#7) := by decide

/-- R75: the edges of the undefined opcodes. -/
theorem test_decode_illegal_opcodes :
    [0x0000#16, 0x0006#16, 0x000F#16, 0x0013#16, 0x00FF#16, 0x0107#16].all (fun c =>
      decide (decode (.command c 0#64) = .error .illegalOpcode)) = true := by decide

/-- R73: an immediate where none is taken. -/
theorem test_decode_immediates :
    [0x0101#16, 0x0102#16, 0x0103#16, 0x0105#16, 0x0110#16, 0x8011#16].all (fun c =>
      decide (decode (.command c 0#64) = .error .immediateNotZero)) = true := by decide

/-- R79: the first and the last reserved `BOP`. -/
theorem test_decode_reserved_bop :
    decode (.request 0b0110001#7 ReqOperands.zero) = .error .reservedBop ∧
      decode (.request 0b0011111#7 ReqOperands.zero) = .error .reservedBop := by decide

/-- Log entry 13: how a table word is laid on a port. -/
theorem test_decode_table_words :
    decodeTableWord 16 0x0304 = some (.digestRd 3#8) ∧ decodeTableWord 8 0x24 = some (.add .w32 0#64 0#64) ∧
      decodeTableWord 8 0x12 = some (.padByte 0#8 0#64) ∧ decodeTableWord 80 0x180012 = some (.padByte 0#8 0x18#64) ∧
      decodeTableWord 16 0 = none := by decide

/-! ## One step of each host command (95_test_vectors.md sections 2.3 and 2.4) -/

theorem test_msgIn_appends :
    resp (.msgIn 0x61626380#64) State.reset = (true, 0#64) ∧
      statusWord (after (.msgIn 0x61626380#64) State.reset) = 0x0000000100002000#64 := by decide
theorem test_msgIn_faults :
    statusWord (after (.msgIn 0x100000000#64) State.reset) = 0x2602#64 ∧
      statusWord (after (.msgIn 1#64) (holding .sha256 16 (abc .sha256))) = 0x100000270E#64 ∧
      statusWord (after (.msgIn 0x100000000#64) (holding .sha256 16 (abc .sha256))) = 0x100000260E#64 ∧
      resp (.msgIn 0x100000000#64) (State.resetOf .sha512 64) = (true, 0#64) := by decide
theorem test_msgClear_keeps_the_digest :
    statusWord (after .msgClear (hashed .sha256)) = 0x2001#64 ∧
      resp (.digestRd 0#8) (after .msgClear (hashed .sha256)) = (true, 0xBA7816BF#64) := by decide +kernel

/-- `HASH` of "abc" for each variant: the digest words of 95_test_vectors.md section 2.5. -/
def readsDigest (v : Variant) (m : Memory) (words : List Word) : Bool :=
  match runAll (.hash :: digestAll v) (holding v 64 m) with
  | some (rs, _) => decide (rs = ⟨true, 0#64⟩ :: words.map fun x => ⟨true, x⟩)
  | none => false

theorem test_hash_digests :
    readsDigest .sha1 (abc .sha1)
        [0xA9993E36#64, 0x4706816A#64, 0xBA3E2571#64, 0x7850C26C#64, 0x9CD0D89D#64] = true ∧
      readsDigest .sha224 (abc .sha224)
        [0x23097D22#64, 0x3405D822#64, 0x8642A477#64, 0xBDA255B3#64, 0x2AADBCE4#64, 0xBDA0B3F7#64,
          0xE36C9DA7#64] = true ∧
      readsDigest .sha256 (abc .sha256)
        [0xBA7816BF#64, 0x8F01CFEA#64, 0x414140DE#64, 0x5DAE2223#64, 0xB00361A3#64, 0x96177A9C#64, 0xB410FF61#64,
          0xF20015AD#64] = true ∧
      readsDigest .sha256 twoBlocks
        [0x248D6A61#64, 0xD20638B8#64, 0xE5C02693#64, 0x0C3E6039#64, 0xA33CE459#64, 0x64FF2167#64, 0xF6ECEDD4#64,
          0x19DB06C1#64] = true ∧
      readsDigest .sha384 (abc .sha384)
        [0xCB00753F45A35E8B#64, 0xB5A03D699AC65007#64, 0x272C32AB0EDED163#64, 0x1A8B605A43FF5BED#64,
          0x8086072BA1E7CC23#64, 0x58BAECA134C825A7#64] = true ∧
      readsDigest .sha512 (abc .sha512)
        [0xDDAF35A193617ABA#64, 0xCC417349AE204131#64, 0x12E6FA4E89A97EA2#64, 0x0A9EEEE64B55D39A#64,
          0x2192992A274FC1A8#64, 0x36BA3C23A3FEEBBD#64, 0x454D4423643CE80E#64, 0x2A9AC94FA54CA49F#64] = true ∧
      readsDigest .sha512t224 (abc .sha512t224)
        [0x4634270F707B6A54#64, 0xDAAE7530460842E2#64, 0x0E37ED265CEEE9A4#64, 0x3E8924AA00000000#64] = true ∧
      readsDigest .sha512t256 (abc .sha512t256)
        [0x53048E2681941EF9#64, 0x9B2E29B76B4C7DAB#64, 0xE4C2D0C634FC6D46#64, 0xE0E2F13107E7AF23#64] = true := by
  decide +kernel

theorem test_digestRd_view :
    resp (.digestRd 7#8) (hashed .sha256) = (true, 0xF20015AD#64) ∧
      slot (hashed .sha512t224).h 3 = 0x3E8924AAF57C93D9#64 ∧
      resp (.digestRd 3#8) (hashed .sha512t224) = (true, 0x3E8924AA00000000#64) := by decide +kernel
theorem test_hash_and_digestRd_faults :
    statusWord faulted = 0x2202#64 ∧
      statusWord (after .hash (holding .sha256 64 ((abc .sha256).take 15))) = 0x0000000F00002302#64 ∧
      statusWord (after (.digestRd 8#8) (hashed .sha256)) = 0x1000002507#64 ∧
      statusWord (after (.digestRd 0#8) (holding .sha256 64 (abc .sha256))) = 0x1000002406#64 ∧
      faultOf (.digestRd 5#8) (State.resetOf .sha1 64) = (true, 4) ∧
      faultOf (.digestRd 6#8) (valid .sha384) = (true, 5) ∧
      faultOf (.digestRd 4#8) (valid .sha512t224) = (true, 5) := by decide +kernel
theorem test_statusRd :
    resp .statusRd State.reset = (true, 0x2000#64) ∧
      resp .statusRd (holding .sha256 64 (abc .sha256)) = (true, 0x1000002004#64) ∧
      resp .statusRd (holding .sha256 16 (abc .sha256)) = (true, 0x100000200C#64) ∧
      resp .statusRd (after .hash (State.resetOf .sha384 64)) = (true, 0xB202#64) := by decide
theorem test_statusRd_of_a_faulted_engine :
    resp .statusRd faulted = (true, 0x2202#64) ∧
      resp (.msgIn 1#64) faulted = (false, 0#64) ∧ statusWord (after (.msgIn 1#64) faulted) = 0x2202#64 ∧
      ((stepped (awaiting (.transaction (.command 0x0105#16 0#64)) faulted)).rspOk,
        (stepped (awaiting (.transaction (.command 0x0105#16 0#64)) faulted)).rspData) = (false, 0#64) := by decide
theorem test_illegal_commands :
    [0x0000#16, 0x0006#16, 0x0013#16, 0x00FF#16, 0x0103#16, 0x0105#16].all (fun c =>
      decide (statusWord (stepped (awaiting (.transaction (.command c 0#64)) State.reset)) = 0x2102#64)) = true := by
  decide

theorem test_padNeeded :
    ([0, 8, 24, 440, 448, 504, 512, 1000, 1024, 7].map fun l =>
        (resp (.padNeeded (BitVec.ofNat 64 l)) State.reset).2.toNat) = [1, 1, 1, 1, 1, 1, 0, 1, 0, 1] ∧
      resp (.padNeeded 512#64) (State.resetOf .sha512 64) = (true, 1#64) ∧
      resp (.padNeeded 1024#64) (State.resetOf .sha512 64) = (true, 0#64) := by decide
theorem test_padLen_narrow :
    ([0, 8, 24, 440, 448, 504, 512, 1000, 1024, 2 ^ 64 - 8].map fun l =>
        (resp (.padLen (BitVec.ofNat 64 l)) State.reset).2.toNat) = [64, 63, 61, 9, 72, 65, 64, 67, 64, 65] ∧
      faultOf (.padLen 7#64) State.reset = (true, 8) := by decide
theorem test_padLen_wide :
    ([0, 8, 896, 1536, 2048, 2 ^ 64 - 8].map fun l =>
      (resp (.padLen (BitVec.ofNat 64 l)) (State.resetOf .sha512 64)).2.toNat) = [128, 127, 144, 64, 128, 129] := by
  decide
theorem test_padByte_narrow :
    resp (.padByte 0#8 24#64) State.reset = (true, 0x80#64) ∧ resp (.padByte 1#8 24#64) State.reset = (true, 0#64) ∧
      resp (.padByte 60#8 24#64) State.reset = (true, 0x18#64) ∧
      faultOf (.padByte 61#8 24#64) State.reset = (true, 9) ∧
      faultOf (.padByte 200#8 7#64) State.reset = (true, 8) := by decide
theorem test_padByte_wide :
    ([0, 1, 127, 128, 135, 136, 141, 142, 143].map fun i =>
        (resp (.padByte (BitVec.ofNat 8 i) 896#64) (State.resetOf .sha512 64)).2.toNat)
        = [0x80, 0, 0, 0, 0, 0, 0, 3, 0x80] ∧
      statusWord (after (.padByte 144#8 896#64) (State.resetOf .sha512 64)) = 0xC902#64 := by decide

/-! ## One request of each backend operation (95_test_vectors.md section 2.1) -/

theorem test_and : yOf (.and .w32 0xF0F0F0F0#64 0x0FF00FF0#64) State.reset = 0x00F000F0#64 := by decide
theorem test_or : yOf (.or .w8 0x81#64 0x18#64) State.reset = 0x99#64 := by decide
theorem test_xor : yOf (.xor .w32 0x12345678#64 0xFFFFFFFF#64) State.reset = 0xEDCBA987#64 := by decide
theorem test_not :
    yOf (.not .w8 0#64) State.reset = 0xFF#64 ∧ yOf (.not .w64 1#64) State.reset = 0xFFFFFFFFFFFFFFFE#64 := by decide
theorem test_add :
    yOf (.add .w32 0xFFFFFFFF#64 2#64) State.reset = 1#64 ∧ yOf (.add .w8 0x80#64 0x80#64) State.reset = 0#64 ∧
      yOf (.add .w64 0xFFFFFFFFFFFFFFFF#64 1#64) State.reset = 0#64 := by decide
theorem test_mul :
    yOf (.mul .w32 0xFFFFFFFF#64 0xFFFFFFFF#64) State.reset = 1#64 ∧
      yOf (.mul .w8 0x0F#64 0x11#64) State.reset = 0xFF#64 := by decide
theorem test_shl :
    yOf (.shl .w32 0x80000001#64 1#7) State.reset = 2#64 ∧ yOf (.shl .w32 1#64 31#7) State.reset = 0x80000000#64 ∧
      faultOf (.shl .w32 1#64 32#7) State.reset = (true, 10) := by decide
theorem test_shr :
    yOf (.shr .w64 0x8000000000000000#64 63#7) State.reset = 1#64 ∧
      faultOf (.shr .w8 0x80#64 8#7) State.reset = (true, 10) := by decide
theorem test_rotl :
    yOf (.rotl .w32 0x67452301#64 5#7) State.reset = 0xE8A4602C#64 ∧
      yOf (.rotl .w32 0x12345678#64 0#7) State.reset = 0x12345678#64 ∧
      yOf (.rotl .w64 0x8000000000000000#64 1#7) State.reset = 1#64 := by decide
theorem test_rotr :
    yOf (.rotr .w32 0x12345678#64 8#7) State.reset = 0x78123456#64 ∧
      yOf (.rotr .w64 0x0123456789ABCDEF#64 63#7) State.reset = 0x02468ACF13579BDE#64 ∧
      yOf (.rotr .w8 1#64 7#7) State.reset = 2#64 := by decide
theorem test_const :
    yOf (.const .w32 0xFFFFFFFF#64) State.reset = 0xFFFFFFFF#64 ∧
      faultOf (.const .w32 0x100000000#64) State.reset = (true, 10) := by decide
theorem test_testbit :
    yOf (.testbit .w32 0x80000000#64 31#7) State.reset = 1#64 ∧
      yOf (.testbit .w32 0x80000000#64 0#7) State.reset = 0#64 ∧
      faultOf (.testbit .w8 0xFF#64 8#7) State.reset = (true, 10) := by decide
theorem test_select :
    yOf (.select .w32 true 0x11111111#64 0x22222222#64) State.reset = 0x11111111#64 ∧
      yOf (.select .w32 false 0x11111111#64 0x22222222#64) State.reset = 0x22222222#64 := by decide
theorem test_booleans :
    yOf (.band true false) State.reset = 0#64 ∧ yOf (.band true true) State.reset = 1#64 ∧
      yOf (.bor false false) State.reset = 0#64 ∧ yOf (.bor false true) State.reset = 1#64 ∧
      yOf (.bnot false) State.reset = 1#64 ∧ yOf (.bnot true) State.reset = 0#64 := by decide
theorem test_lookup :
    yOf (.lookup .w32 false 63#7) State.reset = 0xC67178F2#64 ∧
      yOf (.lookup .w32 true 7#7) State.reset = 0x5BE0CD19#64 ∧
      yOf (.lookup .w32 false 3#7) (State.resetOf .sha1 64) = 0xCA62C1D6#64 ∧
      yOf (.lookup .w64 false 79#7) (State.resetOf .sha512 64) = 0x6C44198C4A475817#64 ∧
      yOf (.lookup .w64 true 0#7) (State.resetOf .sha512t256 64) = 0x22312194FC2BF72C#64 := by decide
theorem test_lookup_faults :
    faultOf (.lookup .w32 false 64#7) State.reset = (true, 10) ∧
      faultOf (.lookup .w32 true 8#7) State.reset = (true, 10) ∧
      faultOf (.lookup .w64 false 0#7) State.reset = (true, 10) ∧
      faultOf (.lookup .w32 false 4#7) (State.resetOf .sha1 64) = (true, 10) := by decide

/-! ## Round functions (95_test_vectors.md section 2.2) -/

theorem test_ch_parity_maj :
    ch 0x510E527F#32 0x9B05688C#32 0x1F83D9AB#32 = 0x1F85C98C#32 ∧
      parity 0xEFCDAB89#32 0x98BADCFE#32 0x10325476#32 = 0x67452301#32 ∧
      maj 0x6A09E667#32 0xBB67AE85#32 0x3C6EF372#32 = 0x3A6FE667#32 := by decide
theorem test_sha1_selector :
    [19, 20, 59, 60].map (fun t => sha1F t 0xEFCDAB89#32 0x98BADCFE#32 0x10325476#32) =
      [0x98BADCFE#32, 0x67452301#32, 0x98BADCFE#32, 0x67452301#32] := by decide
theorem test_sigmas :
    bigSigma0_256 0x6A09E667#32 = 0xCE20B47E#32 ∧ bigSigma1_256 0x510E527F#32 = 0x3587272B#32 ∧
      smallSigma0_256 0x61626380#32 = 0x940E90EF#32 ∧ smallSigma1_256 0xFFFFFFFF#32 = 0x003FFFFF#32 ∧
      bigSigma0_512 0x6A09E667F3BCC908#64 = 0x08C4DB56AAC80C2A#64 ∧
      bigSigma1_512 0x510E527FADE682D1#64 = 0x9427E33BB5C9DBCA#64 ∧
      smallSigma0_512 0x6162638000000000#64 = 0x3012976480000000#64 ∧
      smallSigma1_512 0x18#64 = 0x00030000000000C0#64 := by decide
theorem test_hash_intermediate_values :
    ((hashed .sha1).hidden.sched.toList.drop 16).take 4 = [0xC2C4C700#64, 0#64, 0x30#64, 0x85898E01#64] ∧
      ((hashed .sha256).hidden.sched.toList.drop 16).take 4 = [0x61626380#64, 0xF0000#64, 0x7DA86405#64, 0x600003C6#64] ∧
      (hashed .sha512).hidden.sched.toList.getD 79 0#64 = 0x92AEEED1A7BCF7D2#64 ∧
      (hashed .sha256).hidden.wv =
        ⟨0x506E3058#64, 0xD39A2165#64, 0x04D24D6C#64, 0xB85E2CE9#64, 0x5EF50F24#64, 0xFB121210#64, 0x948D25B6#64,
          0x961F4894#64⟩ ∧
      (hashed .sha224).h.h = 0xD2DA082D#64 := by decide +kernel

/-! ## A run of command words (95_test_vectors.md program P3, with an undefined command before it) -/

theorem test_run_outcome :
    ((runOutcome .sha384 64 [⟨0x0003#16, 0#64⟩, ⟨0x0005#16, 0#64⟩, ⟨0x0001#16, 0x6162638000000000#64⟩]).map
        fun o => (o.1, succeeded o.2)) =
      some ([⟨false, 0#64⟩, ⟨true, 0xB202#64⟩, ⟨false, 0#64⟩], false) ∧
    ((runOutcome .sha256 64 [⟨0x0013#16, 0#64⟩, ⟨0x0005#16, 0#64⟩]).map fun o => (o.1, succeeded o.2)) =
      some ([⟨false, 0#64⟩, ⟨true, 0x2102#64⟩], false) := by decide
theorem test_run_has_no_response_of_a_request :
    (runAll [.statusRd, .add .w32 1#64 1#64] State.reset).map (fun o => o.1) = some [⟨true, 0x2000#64⟩] := by decide

/-! ## The tables against each other -/

/-- The seven variants. -/
def variants : List Variant := [.sha1, .sha224, .sha256, .sha384, .sha512, .sha512t224, .sha512t256]

/-- R5: `ND = ceil(DB / W)`, and the padded block is 16 words. -/
theorem test_parameters_agree :
    variants.all (fun v => decide (v.nd = (v.db + v.w - 1) / v.w) && decide (v.bb = 16 * v.w) &&
      decide (v.lf = 2 * v.w)) = true := by decide

/-- The table has 25 rows, and no two rows of one port cover one word. -/
theorem test_opcode_rows_are_disjoint :
    opcodeTable.length = 25 ∧
      opcodeTable.Pairwise (fun r q => r.host ≠ q.host ∨ r.pattern &&& (r.mask &&& q.mask) ≠ q.pattern &&& (r.mask &&& q.mask)) := by
  decide

/-- The lengths of the tables (R221 to R230). -/
theorem test_table_lengths :
    variants.all (fun v => decide (v.ivt.length = v.nh) &&
      decide (v.kt.length = if v = .sha1 then 4 else v.rounds)) = true := by decide

/-- The round constants of the 32-bit family are the high halves of the first 64 of the 64-bit family; SHA-224's
initial words are the low halves of SHA-384's. -/
theorem test_constants_agree :
    (Variant.k512.take 64).map (fun x : Word => x >>> 32) = Variant.k256 ∧
      Variant.sha384Iv.map (fun x : Word => x &&& 0xFFFFFFFF#64) = Variant.sha224Iv ∧
      Variant.sha512Iv.map (fun x : Word => x >>> 32) = Variant.sha256Iv := by decide +kernel

/-- R240: the initial words of SHA-512/224 and SHA-512/256 are the SHA-512 compression, from SHA-512's initial words each
XORed with 0xA5A5A5A5A5A5A5A5, of the padded ASCII name. -/
theorem test_truncated_initial_words :
    [(Variant.sha512t224, [0x32#8, 0x32#8, 0x34#8]), (Variant.sha512t256, [0x32#8, 0x35#8, 0x36#8])].all (fun q =>
      let name := [0x53#8, 0x48#8, 0x41#8, 0x2D#8, 0x35#8, 0x31#8, 0x32#8, 0x2F#8] ++ q.2
      let start := slotsOf fun i => Variant.sha512.romEntry true i ^^^ 0xA5A5A5A5A5A5A5A5#64
      let words := compress .sha512 start (packWords .sha512 (paddedMessage .sha512 name))
      decide ((List.range 8).map (slot words) = q.1.ivt)) = true := by decide +kernel

/-! ## Witnesses: each statement's hypotheses are met -/

theorem witness_EncodeOfDecodeKeepsTheWord :
    decodeCommand 0xFF04#16 5#64 = .ok (.digestRd 0xFF#8) ∧
      decodeRequest 0b1101101#7 ReqOperands.zero = .ok (.band false false) ∧
      decodeRequest 0b1110000#7 ReqOperands.zero = .ok (.lookup .reserved false 0#7) := by decide
theorem witness_UnreadArgIsIgnored :
    (opcOf 0xFF04#16).toNat ∉ [0x01, 0x10, 0x11, 0x12] ∧ (opcOf 0x0013#16).toNat ∉ [0x01, 0x10, 0x11, 0x12] := by decide
theorem witness_StepRunsTheDecodedInstruction :
    (awaiting (.transaction (.command 0x0304#16 0#64)) State.reset).pending =
        .transaction (.command 0x0304#16 0#64) :: [] ∧
      decode (.command 0x0304#16 0#64) = .ok (.digestRd 3#8) ∧
      decodeTableWord 16 0x0304 = some (.digestRd 3#8) ∧ State.reset.pending = [] := by decide
theorem witness_UndefinedCommandWordRecordsItsFault :
    State.reset.fault = false ∧
      (awaiting (.transaction (.command 0x0013#16 0#64)) State.reset).pending =
        .transaction (.command 0x0013#16 0#64) :: [] ∧
      (opcOf 0x0013#16).toNat ∉ [0x01, 0x02, 0x03, 0x04, 0x05, 0x10, 0x11, 0x12] ∧
      ((opcOf 0x0103#16).toNat ∉ [0x04, 0x12] ∧ imm8Of 0x0103#16 ≠ 0#8) := by decide
theorem witness_FaultedEngineRefusesAllButStatusRead :
    faulted.fault = true ∧ (awaiting (.transaction (.command 0x0105#16 0#64)) faulted).fault = true ∧
      (0x0105#16 : BitVec 16) ≠ 0x0005#16 := by decide
theorem witness_StatusAfterResetShowsTheVariant :
    Config.bufCapLegal 16 = true ∧ Config.bufCapLegal (2 ^ 32 - 16) = true ∧
      ((.sha512t256, 0xE000#64) : Variant × Word) ∈ [((.sha1, 0x0000#64) : Variant × Word), (.sha224, 0x1000#64),
        (.sha256, 0x2000#64), (.sha384, 0xB000#64), (.sha512, 0xC000#64), (.sha512t224, 0xD000#64),
        (.sha512t256, 0xE000#64)] := by decide
theorem witness_MsgInFollowsItsRule :
    State.reset.variant.w = 32 ∧ 2 ^ 32 ≤ (0x100000000#64 : Word).toNat ∧
      (holding .sha256 16 (abc .sha256)).count = (holding .sha256 16 (abc .sha256)).bufCap ∧
      (0xFFFFFFFF#64 : Word).toNat < 2 ^ 32 ∧
      (holding .sha256 16 ((abc .sha256).take 15)).fault = false ∧
      (holding .sha256 16 ((abc .sha256).take 15)).count ≠ 16 ∧
      ((State.resetOf .sha512 64).variant.w = 32 → (0xFFFFFFFFFFFFFFFF#64 : Word).toNat < 2 ^ 32) := by decide

theorem witness_MsgInSequenceAppendsInOrder :
    abc .sha256 ≠ [] ∧ (∀ v ∈ abc .sha256, (State.resetOf .sha256 16).variant.w = 32 → v.toNat < 2 ^ 32) ∧
      (State.resetOf .sha256 16).count + (abc .sha256).length ≤ (State.resetOf .sha256 16).bufCap := by
  refine ⟨by decide, fun v hv _ => ?_, by decide⟩
  have h : (abc .sha256).all (fun v => decide (v.toNat < 2 ^ 32)) = true := by decide
  simpa using List.all_eq_true.1 h v hv
theorem witness_MsgClearEmptiesTheBuffer : (holding .sha256 64 (abc .sha256)).fault = false := by decide
theorem witness_HashCompletesWithTheDigestOfTheBuffer :
    (holding .sha1 64 (abc .sha1)).fault = false ∧ 0 < (holding .sha1 64 (abc .sha1)).count ∧
      (holding .sha1 64 (abc .sha1)).count % 16 = 0 ∧ 4 < Variant.sha1.nh ∧ Variant.sha1.nh ≤ 5 := by decide
theorem witness_HashFaultsBeforeAnyWrite :
    State.reset.count = 0 ∧ 0 < (holding .sha256 64 [0#64]).count ∧ (holding .sha256 64 [0#64]).count % 16 ≠ 0 ∧
      (holding .sha256 64 ((abc .sha256).take 15)).count % 16 ≠ 0 := by decide
theorem witness_HashChainsBlockByBlock :
    7 < Variant.sha224.nh ∧ (twoBlocks.take 16).length % 16 = 0 ∧ (twoBlocks.drop 16).length = 16 := by decide
theorem witness_Sha1BlockFollowsTheRoundRule : (abc .sha1).length = 16 ∧ 79 < 80 ∧ 4 < 5 := by decide
theorem witness_Sha2NarrowBlockFollowsTheRoundRule :
    (Variant.sha224 = .sha224 ∨ Variant.sha224 = .sha256) ∧ (abc .sha224).length = 16 := by decide
theorem witness_Sha2WideBlockFollowsTheRoundRule : Variant.sha512t224.w = 64 ∧ (abc .sha512t224).length = 16 := by
  decide
theorem witness_TruncatedVariantRunsTheFullCompression :
    ((.sha224, .sha256) : Variant × Variant) ∈ [((.sha224, .sha256) : Variant × Variant), (.sha384, .sha512),
        (.sha512t224, .sha512), (.sha512t256, .sha512)] ∧
      ∀ b ∈ [twoBlocks.take 16, twoBlocks.drop 16], b.length = 16 := by decide
theorem witness_SecondHashGivesTheSameDigest :
    exec .hash (holding .sha256 64 (abc .sha256)) = .next (hashed .sha256) ∧ (hashed .sha256).rspOk = true ∧
      exec .hash (hashed .sha256) = .next (after .hash (hashed .sha256)) :=
  ⟨hash_next _, by decide +kernel, hash_next _⟩
theorem witness_DigestReadFollowsItsRule :
    State.reset.fault = false ∧ State.reset.digestValid = false ∧
      (valid .sha1).fault = false ∧ (valid .sha1).digestValid = true ∧ (valid .sha1).variant.nd ≤ (5#8 : BitVec 8).toNat ∧
      (valid .sha512t224).fault = false ∧ (valid .sha512t224).digestValid = true ∧
      (valid .sha512t224).variant.nd ≤ (valid .sha512t224).hHeld ∧ (3#8 : BitVec 8).toNat < (valid .sha512t224).variant.nd ∧
      (2#8 : BitVec 8).toNat < (valid .sha512t224).variant.nd := by decide

theorem witness_DigestStaysReadableUntilTheNextHash :
    (∀ i ∈ [Instr.msgClear, .msgIn 0x80000000#64], i ≠ .hash) ∧
      runAll [.msgClear, .msgIn 0x80000000#64] (valid .sha256) =
        some ([⟨true, 0#64⟩, ⟨true, 0#64⟩], after (.msgIn 0x80000000#64) (after .msgClear (valid .sha256))) ∧
      (after (.msgIn 0x80000000#64) (after .msgClear (valid .sha256))).fault = false := by decide
theorem witness_ReadsAreIdempotentAndWriteTheResponse :
    isRead (.padByte 60#8 24#64) = true ∧
      exec (.padByte 60#8 24#64) State.reset = .next (after (.padByte 60#8 24#64) State.reset) ∧
      (after (.padByte 60#8 24#64) State.reset).rspOk = true ∧
      (after (.padByte 61#8 24#64) State.reset).rspOk = false :=
  ⟨by decide, next_after ((execPadByte_outcome _ _ _).imp fun _ h => h.1), by decide, by decide⟩
theorem witness_PadNeededAnswersForEveryLength : State.reset.fault = false := by decide
theorem witness_PadLenRespondsWithTheSuffixLength :
    State.reset.fault = false ∧ (7#64 : Word).toNat % 8 ≠ 0 ∧ (448#64 : Word).toNat % 8 = 0 ∧
      (0xFFFFFFFFFFFFFFF8#64 : Word).toNat % 8 = 0 ∧ State.reset.variant.w = 32 ∧
      (State.resetOf .sha384 64).variant.w = 64 := by decide
theorem witness_PadByteRespondsWithTheSuffixByte :
    State.reset.fault = false ∧ (7#64 : Word).toNat % 8 ≠ 0 ∧ (24#64 : Word).toNat % 8 = 0 ∧
      padLength State.reset.variant (24#64 : Word).toNat ≤ (61#8 : BitVec 8).toNat ∧
      (60#8 : BitVec 8).toNat < padLength .sha256 24 ∧ (52#8 : BitVec 8).toNat < padLength .sha256 24 - 8 ∧
      padLength .sha256 24 - 8 ≤ (53#8 : BitVec 8).toNat := by decide

theorem witness_PaddedMessageIsWholeBlocks :
    448 % 8 = 0 ∧ Variant.sha224.w = 32 ∧ Variant.sha384.w = 64 ∧ padLength .sha256 440 = 9 ∧
      padLength .sha256 448 = 72 ∧ padLength .sha512 888 = 17 ∧ padLength .sha512 896 = 144 := by decide
theorem witness_SuffixBytesAreTheBitLevelSuffix : 2 ^ 64 - 8 < 2 ^ 64 ∧ (2 ^ 64 - 8) % 8 = 0 := by decide
theorem witness_BitwiseRequestsAnswerBitByBit :
    WSel.w8.width? = some 8 ∧ (0xFF#64 : Word).toNat < 2 ^ 8 ∧ WSel.w64.width? = some 64 ∧
      (0xFFFFFFFFFFFFFFFF#64 : Word).toNat < 2 ^ 64 := by decide
theorem witness_AddAndMulAnswerModuloTheWidth :
    WSel.w32.width? = some 32 ∧ (0xFFFFFFFF#64 : Word).toNat < 2 ^ 32 ∧ (0#64 : Word).toNat < 2 ^ 32 := by decide
theorem witness_ShiftsAnswerBelowTheWidth :
    WSel.w8.width? = some 8 ∧ (0xFF#64 : Word).toNat < 2 ^ 8 ∧ (7#7 : BitVec 7).toNat < 8 ∧ (0#7 : BitVec 7).toNat < 8 := by
  decide
theorem witness_RotatesMoveEveryBit :
    WSel.w64.width? = some 64 ∧ (0xFFFFFFFFFFFFFFFF#64 : Word).toNat < 2 ^ 64 ∧ (63#7 : BitVec 7).toNat < 64 ∧
      (0#7 : BitVec 7).toNat < 64 := by decide
theorem witness_ConstTestbitAndSelectAnswer :
    WSel.w8.width? = some 8 ∧ (0xFF#64 : Word).toNat < 2 ^ 8 ∧ (7#7 : BitVec 7).toNat < 8 := by decide
theorem witness_OutOfRangeOperandsRaiseBackendContract :
    State.reset.fault = false ∧ WSel.w8.width? = some 8 ∧ 8 ≤ (8#7 : BitVec 7).toNat ∧
      2 ^ 8 ≤ (0x100#64 : Word).toNat ∧ WSel.w64.width? = some 64 ∧ 64 ≤ (64#7 : BitVec 7).toNat := by decide
theorem witness_BooleanRequestsAnswerTheirTruthTables :
    (awaiting (.transaction (.request (breqWord 0x0F#5 .reserved) ReqOperands.zero)) State.reset).pending =
      .transaction (.request (breqWord 0x0F#5 .reserved) ReqOperands.zero) :: [] := by decide
theorem witness_LookupAnswersInsideItsTable :
    WSel.w32.width? = some State.reset.variant.w ∧ (63#7 : BitVec 7).toNat < State.reset.variant.rounds ∧
      State.reset.fault = false ∧ WSel.w64.width? ≠ some State.reset.variant.w ∧
      State.reset.variant.nh ≤ (8#7 : BitVec 7).toNat := by decide
theorem witness_ReservedRequestRaisesBackendContract :
    State.reset.fault = false ∧ (0b1100100#7 : BitVec 7).extractLsb' 5 2 = 0b11#2 ∧
      (bopOf 0b1100100#7).toNat ∉ [0x0D, 0x0E, 0x0F] ∧
      0x11 ≤ (bopOf 0b0010001#7).toNat ∧ 0x11 ≤ (bopOf 0b1111111#7).toNat ∧
      (awaiting (.transaction (.request 0b1100100#7 ReqOperands.zero)) State.reset).pending =
        .transaction (.request 0b1100100#7 ReqOperands.zero) :: [] := by decide
theorem witness_ValidRequestsArePureFunctions :
    WellFormed (.rotr .w8 0xFF#64 7#7) = true ∧ (Instr.rotr .w8 0xFF#64 7#7).isCommand = false ∧
      (∀ ws tsel n, Instr.rotr .w8 0xFF#64 7#7 ≠ .lookup ws tsel n) :=
  ⟨by decide, rfl, fun _ _ _ h => by cases h⟩
theorem witness_RoundFunctionsObeyTheirIdentities : 0 < 8 ∧ 63 < 64 := by decide
theorem witness_SigmasAreThreeBackendRequests :
    (bigSigma0_256 = bigSigma0_256 ∧ 2#7 = 2#7 ∧ 13#7 = 13#7 ∧ 22#7 = 22#7) ∧
      (smallSigma1_512 = smallSigma1_512 ∧ 19#7 = 19#7 ∧ 61#7 = 61#7 ∧ 6#7 = 6#7) :=
  ⟨⟨rfl, rfl, rfl, rfl⟩, rfl, rfl, rfl, rfl⟩
theorem witness_FaultsArePrecise :
    Instr.hash.isCommand = true ∧ exec .hash State.reset = .next faulted ∧ State.reset.fault = false ∧
      faulted.fault = true := ⟨rfl, hash_next _, rfl, by decide⟩
theorem witness_FirstFaultIsKeptUntilReset :
    step (awaiting (.transaction (.command 0x0001#16 0#64)) faulted) =
        .next (stepped (awaiting (.transaction (.command 0x0001#16 0#64)) faulted)) ∧
      (awaiting (.transaction (.command 0x0001#16 0#64)) faulted).fault = true ∧
      (∀ f rest, (awaiting (.transaction (.command 0x0001#16 0#64)) faulted).pending ≠ .reset f :: rest) ∧
      (stepped (awaiting (.transaction (.command 0x0013#16 0#64)) State.reset)).faultCode ≠ State.reset.faultCode :=
  ⟨rfl, by decide, by simp [awaiting], by decide⟩
theorem witness_DigestValidTracksACompletedHash :
    exec .hash (holding .sha1 64 (abc .sha1)) = .next (hashed .sha1) ∧
      decode (.command 0x0013#16 0#64) = .error .illegalOpcode ∧
      (awaiting (.transaction (.command 0x0013#16 0#64)) State.reset).pending =
        .transaction (.command 0x0013#16 0#64) :: [] ∧
      (awaiting (.reset none) State.reset).pending = .reset none :: [] := ⟨hash_next _, by decide, rfl, rfl⟩
theorem witness_InstructionFrames :
    exec .hash (holding .sha1 64 (abc .sha1)) = .next (hashed .sha1) ∧
      (∀ v, Instr.hash ≠ .msgIn v) ∧ Instr.hash ≠ .msgClear := ⟨hash_next _, by simp, by simp⟩
theorem witness_ResetLeavesAnEmptyEngine :
    (awaiting (.reset (some (.command 0x0003#16 0#64))) faulted).pending =
      .reset (some (.command 0x0003#16 0#64)) :: [] ∧
      16 ≤ (awaiting (.reset (some (.command 0x0003#16 0#64))) faulted).bufCap := by decide
theorem witness_EveryStepKeepsTheInvariant :
    (awaiting (.transaction (.command 0x0001#16 5#64)) State.reset).Inv ∧
      step (awaiting (.transaction (.command 0x0001#16 5#64)) State.reset) =
        .next (stepped (awaiting (.transaction (.command 0x0001#16 5#64)) State.reset)) := by
  refine ⟨?_, rfl⟩
  constructor <;> first | decide | (intro i hi; rcases i with _|_|_|_|_|_|_|_|_ <;> first | decide | omega)
theorem witness_ResetMeetsTheInvariant : Config.bufCapLegal 16 = true := by decide
theorem witness_Sha1NeverWritesTheUpperSlots :
    (holding .sha1 64 (abc .sha1)).variant = .sha1 ∧ (holding .sha1 64 (abc .sha1)).hHeld ≤ 5 ∧
      (holding .sha1 64 (abc .sha1)).hidden.wvHeld ≤ 5 ∧ 5 ≤ (5 : Nat) ∧ (7 : Nat) < 8 := by decide
theorem witness_HiddenStateIsNeverObservable :
    (valid .sha512t224).SameView
      { valid .sha512t224 with
        hidden := { Hidden.reset with t := 1#64 }, h := { (valid .sha512t224).h with d := 1#64, h := 1#64 } } where
  variant := rfl
  bufCap := rfl
  buf := rfl
  view := by
    intro _ i hi
    rcases i with _ | _ | _ | _ | i
    · rfl
    · rfl
    · rfl
    · decide
    · have : i + 4 < 4 := hi
      omega
  hHeld := rfl
  digestValid := rfl
  fault := rfl
  faultCode := rfl
  rspOk := rfl
  rspData := rfl
  y := rfl
  pending := rfl
theorem witness_PackingLosesNoByte : [0x61#8, 0x62#8, 0x63#8, 0x80#8].length % (Variant.sha256.w / 8) = 0 := by decide
theorem witness_HashMsgReturnsTheDigest :
    State.reset.fault = false ∧ 8 * [0x61#8, 0x62#8, 0x63#8].length < 2 ^ 64 ∧
      (paddedMessage State.reset.variant [0x61#8, 0x62#8, 0x63#8]).length ≤
        State.reset.bufCap * (State.reset.variant.w / 8) := by decide
theorem witness_EveryRunHasItsOutcome :
    (runOutcome .sha256 64 [⟨0x0013#16, 0#64⟩]).isSome = true ∧
      (∀ rs s, runOutcome .sha256 64 [⟨0x0013#16, 0#64⟩] = some (rs, s) → s.fault = true) ∧
      [(⟨0x0001#16, 0#64⟩ : Command), ⟨0x0005#16, 0#64⟩][1]? = some ⟨0x0005#16, 0#64⟩ := by
  refine ⟨by decide, fun rs s h => ?_, rfl⟩
  have e : (runOutcome .sha256 64 [⟨0x0013#16, 0#64⟩]).map (fun o => o.2.fault) = some true := by decide
  rw [h] at e
  simpa using e
theorem witness_RunOfEncodedCommandsIsTheInstructionsRun :
    [(⟨0x0001#16, 5#64⟩ : Command), ⟨0x0304#16, 0#64⟩].map Command.port =
      [Instr.msgIn 5#64, .digestRd 3#8].map encode := by decide

end Sys2Proof.Tests
end

section
/-! SUPPORT. What an instruction can do, said once for all twenty-five; then the statements of 10_state.md. -/

namespace Sys2Proof.Machine

variable {s t : State} {i : Instr}

/-! ## What an instruction can do -/

/-- A backend request is answered from its operands and, for `LOOKUP`, the variant's tables (R100). -/
theorem exec_request_eq_answer (v : Variant) (hi : i.isCommand = false) :
    ∃ ws result, ∀ s : State, s.variant = v → exec i s = answer ws result s := by
  cases i with
  | msgIn | msgClear | hash | digestRd | statusRd | padNeeded | padLen | padByte => cases hi
  | and ws | or ws | xor ws | not ws | add ws | mul ws | shl ws | shr ws | rotl ws | rotr ws | const ws
  | testbit ws | select ws => exact ⟨ws, _, fun _ _ => rfl⟩
  | band a b => exact ⟨.w8, fun _ => some (boolLane (a && b)), fun _ _ => rfl⟩
  | bor a b => exact ⟨.w8, fun _ => some (boolLane (a || b)), fun _ _ => rfl⟩
  | bnot a => exact ⟨.w8, fun _ => some (boolLane !a), fun _ _ => rfl⟩
  | lookup ws tsel n =>
    exact ⟨ws, fun w => if w = v.w then (v.rom tsel)[n.toNat]? else none, fun s hs => by subst hs; rfl⟩

/-- What each instruction can do: the outcomes of `CommandOutcome` and `RequestOutcome`, with the instructions that
have them. -/
inductive ExecOutcome (s : State) : Instr → State → Prop where
  /-- A faulted engine refuses every command but `STATUS_RD` (R284). -/
  | refused {i : Instr} : i.isCommand = true → i ≠ .statusRd → s.fault = true → ExecOutcome s i (refuse s)
  /-- A command raises a fault of its own (R271, R272). -/
  | faulted {i : Instr} (c : FaultCode) : i.isCommand = true → c.bits.toNat ∈ raisedCodes i → s.fault = false →
      ExecOutcome s i (enterFault c s)
  /-- A read writes the response alone (R60). -/
  | read {i : Instr} (d : Word) : isRead i = true → ExecOutcome s i (respond true d s)
  /-- `MSG_IN` appends a word below capacity (R180). -/
  | appended (v : Word) : s.fault = false → s.count ≠ s.bufCap → wordTyped s.variant v = true →
      ExecOutcome s (.msgIn v) (respond true 0#64 (bufAppend (lane (Word.take s.variant.w v)) s))
  /-- `MSG_CLEAR` empties the buffer (R182). -/
  | cleared : s.fault = false → ExecOutcome s .msgClear (respond true 0#64 (bufClear s))
  /-- `HASH` completes (R183). -/
  | hashed : s.fault = false → s.count ≠ 0 → s.count % 16 = 0 →
      ExecOutcome s .hash (respond true 0#64 (hashBuffer s))
  /-- A request answers `Y` (R100). -/
  | answered {i : Instr} (y : Word) : i.isCommand = false → ExecOutcome s i (setY y s)
  /-- A request violates the backend's contract (R282). -/
  | violated {i : Instr} : i.isCommand = false → ExecOutcome s i (raiseFault .backendContract s)

theorem isCommand_of_isRead (h : isRead i = true) : i.isCommand = true := by
  cases i <;> simp_all [isRead, Instr.isCommand]

/-- Behind the gate of R284 a command is refused, or does what its body does. -/
theorem unlessFaulted_outcome (hc : i.isCommand = true) (hs : i ≠ .statusRd) {body : State → State}
    (hb : s.fault = false → ExecOutcome s i (body s)) :
    ∃ t, unlessFaulted s body = .next t ∧ ExecOutcome s i t := by
  rcases unlessFaulted_cases s body with ⟨h, e⟩ | ⟨h, e⟩
  · exact ⟨_, e, .refused hc hs h⟩
  · exact ⟨_, e, hb h⟩

/-- A check behind the gate: it enters its fault (R271), or the body goes on. -/
theorem check_outcome {p : Prop} [Decidable p] (c : FaultCode) (hc : i.isCommand = true)
    (hm : (raisedCodes i).contains c.bits.toNat = true) (h : s.fault = false) (hb : ¬p → ExecOutcome s i t) :
    ExecOutcome s i (if p then raiseFault c s else t) := by
  split
  · rw [raiseFault_of_noFault s c h]
    exact .faulted c hc (by simpa using hm) h
  · next hp => exact hb hp

theorem exec_outcome (i : Instr) (s : State) : ∃ t, exec i s = .next t ∧ ExecOutcome s i t := by
  cases hi : i.isCommand with
  | false =>
    obtain ⟨ws, result, h⟩ := exec_request_eq_answer s.variant hi
    rw [h s rfl]
    rcases answer_cases ws result s with ⟨y, e⟩ | e
    · exact ⟨_, e, .answered y hi⟩
    · exact ⟨_, e, .violated hi⟩
  | true =>
    cases i with
    | msgIn v =>
      rw [exec, execMsgIn]
      exact unlessFaulted_outcome hi nofun fun h => check_outcome .operandRange hi rfl h fun h1 =>
        check_outcome .bufferFull hi rfl h fun h2 => .appended v h h2 (by simpa using h1)
    | msgClear =>
      rw [exec, execMsgClear]
      exact unlessFaulted_outcome hi nofun .cleared
    | hash =>
      rw [exec, execHash]
      exact unlessFaulted_outcome hi nofun fun h => check_outcome .hashEmpty hi rfl h fun h1 =>
        check_outcome .hashUnaligned hi rfl h fun h2 => .hashed h h1 (by simpa using h2)
    | digestRd k =>
      rw [exec, execDigestRd]
      exact unlessFaulted_outcome hi nofun fun h => check_outcome .digestNotValid hi rfl h fun _ =>
        check_outcome .digestIndex hi rfl h fun _ => .read _ rfl
    | statusRd => exact ⟨_, rfl, .read _ rfl⟩
    | padNeeded l =>
      rw [exec, execPadNeeded]
      exact unlessFaulted_outcome hi nofun fun _ => .read _ rfl
    | padLen l =>
      rw [exec, execPadLen]
      exact unlessFaulted_outcome hi nofun fun h => check_outcome .padNotByte hi rfl h fun _ => .read _ rfl
    | padByte k l =>
      rw [exec, execPadByte]
      exact unlessFaulted_outcome hi nofun fun h => check_outcome .padNotByte hi rfl h fun _ =>
        check_outcome .padIndex hi rfl h fun _ => .read _ rfl
    | and | or | xor | not | add | mul | shl | shr | rotl | rotr | const | testbit | select | band | bor | bnot
    | lookup => cases hi

/-- The inversion lemma of `exec`. -/
theorem exec_inv (h : exec i s = .next t) : ExecOutcome s i t := by
  obtain ⟨u, e, hu⟩ := exec_outcome i s
  rw [h] at e
  cases e
  exact hu

/-- The code is written only by the fault that sets `FAULT` (R27). -/
theorem raiseFault_faultCode (c : FaultCode) (s : State) :
    (raiseFault c s).faultCode = if s.fault then s.faultCode else c.bits := by
  unfold raiseFault
  split <;> rfl

/-! ## Frames -/

namespace ExecOutcome

theorem variant (h : ExecOutcome s i t) : t.variant = s.variant := by cases h <;> simp

theorem bufCap (h : ExecOutcome s i t) : t.bufCap = s.bufCap := by cases h <;> simp

theorem pending (h : ExecOutcome s i t) : t.pending = s.pending := by cases h <;> simp

theorem buf (h : ExecOutcome s i t) (hm : ∀ v, i ≠ .msgIn v) (hc : i ≠ .msgClear) : t.buf = s.buf := by
  cases h with
  | appended v => exact absurd rfl (hm v)
  | cleared => exact absurd rfl hc
  | refused | faulted | read | hashed | answered | violated => simp

/-- `MSG_IN` keeps every word but the one at `COUNT` (R180). -/
theorem bufRead_of_msgIn {v : Word} (h : ExecOutcome s (.msgIn v) t) {k : Nat} (hk : k ≠ s.count) :
    bufRead k t = bufRead k s := by
  cases h with
  | appended => exact bufRead_bufAppend_old _ s k hk
  | refused | faulted | read | answered | violated => simp [bufRead]

theorem hash_state (h : ExecOutcome s i t) (hi : i ≠ .hash) :
    t.h = s.h ∧ t.hHeld = s.hHeld ∧ t.hidden = s.hidden ∧ t.digestValid = s.digestValid := by
  cases h with
  | hashed => exact absurd rfl hi
  | refused | faulted | read | appended | cleared | answered | violated => simp

theorem y (h : ExecOutcome s i t) (hi : i.isCommand = true) : t.y = s.y := by
  cases h with
  | answered _ hr => simp [hi] at hr
  | refused | faulted | read | appended | cleared | hashed | violated => simp

theorem faultRegs (h : ExecOutcome s i t) (hi : i.isCommand = true) (hok : t.rspOk = true) :
    t.fault = s.fault ∧ t.faultCode = s.faultCode := by
  cases h with
  | refused | faulted => cases hok
  | violated hr => simp [hi] at hr
  | read | appended | cleared | hashed | answered => simp

/-- A request writes `Y` alone, or raises `BACKEND_CONTRACT` (R100, R282). -/
theorem request (h : ExecOutcome s i t) (hi : i.isCommand = false) :
    t = { s with y := t.y } ∨ t = raiseFault .backendContract s := by
  cases h with
  | answered => exact .inl rfl
  | violated => exact .inr rfl
  | refused hc | faulted _ hc => simp [hi] at hc
  | read d hr => simp [isCommand_of_isRead hr] at hi
  | appended | cleared | hashed => cases hi

end ExecOutcome

/-! ## What a step does, by the oldest event -/

theorem step_of_idle (h : s.pending = []) : step s = .next s := by simp [step, takeEvent, h]

theorem step_of_instr {p : PortWord} {rest : List PortEvent} (h : s.pending = .transaction p :: rest)
    (hd : decode p = .ok i) : step s = exec i { s with pending := rest } := by simp [step, takeEvent, h, hd]

theorem step_of_reject {p : PortWord} {e : Reject} {rest : List PortEvent} (h : s.pending = .transaction p :: rest)
    (hd : decode p = .error e) : step s = .next (takeReject e { s with pending := rest }) := by
  simp [step, takeEvent, h, hd]

theorem step_of_reset {f : Option PortWord} {rest : List PortEvent} (h : s.pending = .reset f :: rest) :
    step s = .next (takeReset f { s with pending := rest }) := by simp [step, takeEvent, h]

/-! ## The hash words of `HASH` depend on the variant and the buffer alone (R187) -/

/-- The first `n` slots of two files are the same. -/
def AgreeBelow {w : Nat} (n : Nat) (r q : Words8 w) : Prop := ∀ j, j < n → slot r j = slot q j

/-- The hash words and the working variables past `NH` have no part in an algorithm (R6, R302): a round leaves the
hash words alone, and its first `NH` working variables depend on the first `NH` alone. -/
structure Algorithm.Local {w : Nat} (alg : Algorithm w) : Prop where
  nh_le : alg.nh ≤ 8
  round_hs : ∀ t k x r, (alg.round t k x r).hs = r.hs
  round_wv : ∀ t k x r q, AgreeBelow alg.nh r.wv q.wv →
    AgreeBelow alg.nh (alg.round t k x r).wv (alg.round t k x q).wv

section
variable {w : Nat} {alg : Algorithm w} {r q : Regs w}

theorem agreeBelow_eight {a b : Words8 w} : AgreeBelow 8 a b ↔ a = b :=
  ⟨words8_ext a b, fun h _ _ => by rw [h]⟩

theorem agreeBelow_five {a b : Words8 w} :
    AgreeBelow 5 a b ↔ a.a = b.a ∧ a.b = b.b ∧ a.c = b.c ∧ a.d = b.d ∧ a.e = b.e := by
  constructor
  · intro h
    exact ⟨h 0 (by omega), h 1 (by omega), h 2 (by omega), h 3 (by omega), h 4 (by omega)⟩
  · rintro ⟨ha, hb, hc, hd, he⟩ j hj
    interval_cases j <;> assumption

theorem overlay_agree {n : Nat} (hn : n ≤ 8) {new new' : Words8 w} (h : AgreeBelow n new new') (old old' : Words8 w) :
    AgreeBelow n (overlay n new old) (overlay n new' old') := by
  intro j hj
  rw [slot_overlay_lt _ _ (by omega) hj, slot_overlay_lt _ _ (by omega) hj, h j hj]

theorem sha1Algorithm_local : sha1Algorithm.Local where
  nh_le := by decide
  round_hs _ _ _ _ := rfl
  round_wv t k x r q h := by
    obtain ⟨ha, hb, hc, hd, he⟩ := agreeBelow_five.1 h
    exact agreeBelow_five.2 (by simp [sha1Algorithm, sha1Round, ha, hb, hc, hd, he])

/-- A SHA-2 round reads and writes all eight working variables. -/
theorem sha2Round_local {s0 s1 : BitVec w → BitVec w} (hr : alg.round = sha2Round s0 s1) (hn : alg.nh = 8) :
    alg.Local where
  nh_le := hn.le
  round_hs _ _ _ _ := by rw [hr]; rfl
  round_wv t k x r q h := by
    rw [hn, agreeBelow_eight] at *
    simp [hr, sha2Round, h]

theorem workingLoop_hs (hl : alg.Local) (xs : List (BitVec w)) (t : Nat) (r : Regs w) :
    (workingLoop alg t xs r).hs = r.hs := by
  induction xs generalizing t r with
  | nil => rfl
  | cons x xs ih => rw [workingLoop, ih, hl.round_hs]

theorem workingLoop_agree (hl : alg.Local) (xs : List (BitVec w)) (t : Nat) (h : AgreeBelow alg.nh r.wv q.wv) :
    AgreeBelow alg.nh (workingLoop alg t xs r).wv (workingLoop alg t xs q).wv := by
  induction xs generalizing t r q with
  | nil => exact h
  | cons x xs ih => exact ih (t + 1) (hl.round_wv _ _ _ _ _ h)

theorem processBlock_agree (hl : alg.Local) (block : List (BitVec w)) (h : AgreeBelow alg.nh r.hs q.hs) :
    AgreeBelow alg.nh (processBlock alg block r).hs (processBlock alg block q).hs := by
  refine overlay_agree hl.nh_le (fun j hj => ?_) _ _
  have hj8 : j < 8 := lt_of_lt_of_le hj hl.nh_le
  rw [slot_slotsOf _ j hj8, slot_slotsOf _ j hj8, workingLoop_hs hl, workingLoop_hs hl]
  have hwv := workingLoop_agree hl (prepMsgSchedule alg block) 0
    (r := initWorking alg { r with sched := prepMsgSchedule alg block })
    (q := initWorking alg { q with sched := prepMsgSchedule alg block }) (overlay_agree hl.nh_le h r.wv q.wv)
  exact congrArg₂ opAdd (h j hj) (hwv j hj)

theorem hashBlocks_agree (hl : alg.Local) (words : List (BitVec w)) (n : Nat) (h : AgreeBelow alg.nh r.hs q.hs) :
    AgreeBelow alg.nh (hashBlocks alg words n r).hs (hashBlocks alg words n q).hs := by
  induction n with
  | zero => exact h
  | succ n ih => exact processBlock_agree hl _ ih

/-- Whatever the registers held before, the loop gives the same first `NH` hash words. -/
theorem hashRun_agree (hl : alg.Local) (words : List (BitVec w)) (r q : Regs w) :
    AgreeBelow alg.nh (hashRun alg words r).hs (hashRun alg words q).hs :=
  hashBlocks_agree hl words _ (overlay_agree hl.nh_le (fun _ _ => rfl) _ _)

end

/-- Every variant runs one algorithm of its own width and `NH` (R220). -/
theorem exists_algorithm (v : Variant) : ∃ alg : Algorithm v.w, alg.Local ∧ alg.nh = v.nh ∧
    ∀ {α : Type} (f : (w : Nat) → Algorithm w → α), withAlgorithm v f = f v.w alg := by
  cases v with
  | sha1 => exact ⟨sha1Algorithm, sha1Algorithm_local, rfl, fun _ => rfl⟩
  | sha224 | sha256 => exact ⟨sha2Narrow _, sha2Round_local rfl rfl, rfl, fun _ => rfl⟩
  | sha384 | sha512 | sha512t224 | sha512t256 => exact ⟨sha2Wide _, sha2Round_local rfl rfl, rfl, fun _ => rfl⟩

/-- `HASH` writes the first `NH` slots with the hash words of the buffer (R187). -/
theorem slot_hashBuffer_lt (s : State) {j : Nat} (hj : j < s.variant.nh) :
    slot (hashBuffer s).h j = slot (hashWords s.variant s.buf) j := by
  obtain ⟨alg, hl, hn, hf⟩ := exists_algorithm s.variant
  have hj8 : j < 8 := lt_of_lt_of_le hj (nh_le _)
  rw [← hn] at hj
  rw [hashBuffer, hashWords, hf, hf, hashWith, slot_overlay_lt _ _ hj8 hj, slot_lanes _ j hj8, slot_lanes _ j hj8,
    hashRun_agree hl _ _ _ j hj]

/-- Every hash word is a word of the variant's width (R22). -/
theorem hashWords_fit (v : Variant) (m : Memory) : slotsFit v.w (hashWords v m) := by
  obtain ⟨alg, -, -, hf⟩ := exists_algorithm v
  intro j hj
  rw [hashWords, hf, slot_lanes _ j hj]
  exact fits_lane _ le_rfl

/-! ## The invariant -/

theorem inv_pending (h : s.Inv) (es : List PortEvent) : State.Inv { s with pending := es } := { h with }

theorem inv_respond (h : s.Inv) {ok : Bool} {d : Word} (hd : ok = false → d = 0#64) : (respond ok d s).Inv :=
  { h with refusedData := hd }

theorem inv_refuse (h : s.Inv) : (refuse s).Inv := inv_respond h fun _ => rfl

/-- A recorded code is neither 0 nor reserved (R272). -/
theorem faultCode_bits_range (c : FaultCode) : c.bits ≠ 0#4 ∧ c.bits.toNat ≤ 10 := by cases c <;> decide

theorem inv_enterFault (h : s.Inv) (c : FaultCode) : (enterFault c s).Inv :=
  { h with
    codeZero := by simp [(faultCode_bits_range c).1]
    codeLegal := (faultCode_bits_range c).2
    refusedData := fun _ => rfl }

theorem inv_raiseFault (h : s.Inv) (c : FaultCode) : (raiseFault c s).Inv := by
  unfold raiseFault
  split
  · exact inv_refuse h
  · exact inv_enterFault h c

theorem inv_bufAppend (h : s.Inv) (hc : s.count ≠ s.bufCap) (x : Word) :
    (bufAppend (lane (Word.take s.variant.w x)) s).Inv := { h with bufWf := bufAppend_wf s x h.bufWf hc }

theorem inv_bufClear (h : s.Inv) : (bufClear s).Inv := { h with bufWf := bufClear_wf s }

theorem inv_setY (h : s.Inv) (x : Word) : (setY x s).Inv := { h with }

/-- `HASH` writes words of the width, and holds the first `NH` whether or not it held them before (R301). -/
theorem inv_hashBuffer (h : s.Inv) : (hashBuffer s).Inv where
  capLegal := by simpa using h.capLegal
  bufWf := by simpa using h.bufWf
  hashFits j hj := by
    rw [hashBuffer_variant]
    by_cases hn : j < s.variant.nh
    · rw [slot_hashBuffer_lt s hn]
      exact hashWords_fit _ _ j hj
    · rw [slot_hashBuffer_ge s j hj (by omega)]
      exact h.hashFits j hj
  hashHeld := by
    have hh := h.hashHeld
    simp only [hashBuffer_hHeld, hashBuffer_digestValid, hashBuffer_variant, if_true]
    split at hh <;> omega
  codeZero := by simpa using h.codeZero
  codeLegal := by simpa using h.codeLegal
  refusedData := by simpa using h.refusedData

theorem inv_takeReset (h : s.Inv) (f : Option PortWord) : (takeReset f s).Inv where
  capLegal := h.capLegal
  bufWf := wf_nil _ _
  hashFits j hj := by
    have hz : slot (takeReset f s).h j = 0#64 := by interval_cases j <;> rfl
    rw [hz]
    simp [Word.fits]
  hashHeld := rfl
  codeZero := by simp
  codeLegal := by simp
  refusedData _ := rfl

theorem ExecOutcome.inv (h : ExecOutcome s i t) (hs : s.Inv) : t.Inv := by
  cases h with
  | refused => exact inv_refuse hs
  | faulted c => exact inv_enterFault hs c
  | read d => exact inv_respond hs nofun
  | appended v _ hc => exact inv_respond (inv_bufAppend hs hc v) nofun
  | cleared => exact inv_respond (inv_bufClear hs) nofun
  | hashed => exact inv_respond (inv_hashBuffer hs) nofun
  | answered y => exact inv_setY hs y
  | violated => exact inv_raiseFault hs _

/-- Settles O49: the inversion of `step`, and one lemma for each named update of the state. -/
theorem everyStepKeepsTheInvariant : Obligations.EveryStepKeepsTheInvariant := by
  intro s t hs hstep
  rcases step_cases s with ⟨-, e⟩ | ⟨p, rest, i, -, -, e⟩ | ⟨p, rest, r, -, -, e⟩ | ⟨f, rest, -, e⟩ <;>
    rw [e] at hstep
  · cases hstep
    exact hs
  · exact (exec_inv hstep).inv (inv_pending hs rest)
  · cases hstep
    exact inv_raiseFault (inv_pending hs rest) _
  · cases hstep
    exact inv_takeReset (inv_pending hs rest) f

/-! ## What no command reads (R37, R38) -/

/-- Both outcomes are next states, and the two states have the same view. -/
def NextSameView (o p : Host.Outcome State Fault Refusal) : Prop :=
  ∃ s t : State, o = .next s ∧ p = .next t ∧ s.SameView t

section
variable (h : s.SameView t)
include h

theorem next_sameView : NextSameView (.next s) (.next t) := ⟨s, t, rfl, rfl, h⟩

theorem pending_sameView (es : List PortEvent) :
    State.SameView { s with pending := es } { t with pending := es } := { h with pending := rfl }

theorem respond_sameView (ok : Bool) (d : Word) : (respond ok d s).SameView (respond ok d t) :=
  { h with rspOk := rfl, rspData := rfl }

theorem enterFault_sameView (c : FaultCode) : (enterFault c s).SameView (enterFault c t) :=
  { h with fault := rfl, faultCode := rfl, rspOk := rfl, rspData := rfl }

theorem raiseFault_sameView (c : FaultCode) : (raiseFault c s).SameView (raiseFault c t) := by
  unfold raiseFault
  rw [← h.fault]
  split
  · exact respond_sameView h _ _
  · exact enterFault_sameView h c

/-- A check of what the two states share, before the same fault. -/
theorem check_sameView {p : Prop} [Decidable p] (c : FaultCode) {s' t' : State} (hb : ¬p → s'.SameView t') :
    State.SameView (if p then raiseFault c s else s') (if p then raiseFault c t else t') := by
  split
  · exact raiseFault_sameView h c
  · next hp => exact hb hp

theorem bufAppend_sameView (v : Word) : (bufAppend v s).SameView (bufAppend v t) :=
  { h with buf := congrArg (· ++ [v]) h.buf }

theorem bufClear_sameView : (bufClear s).SameView (bufClear t) := { h with buf := rfl }

theorem setY_sameView (x : Word) : (setY x s).SameView (setY x t) := { h with y := rfl }

theorem takeReset_sameView (f g : Option PortWord) : (takeReset f s).SameView (takeReset g t) := by
  unfold takeReset
  rw [h.variant, h.bufCap, h.pending]
  exact ⟨rfl, rfl, rfl, fun _ _ _ => rfl, rfl, rfl, rfl, rfl, rfl, rfl, rfl, rfl⟩

/-- After a `HASH` the digest view is the one of the buffer's hash words, whatever `H` held. -/
theorem hashBuffer_sameView : (hashBuffer s).SameView (hashBuffer t) where
  variant := by simp [h.variant]
  bufCap := by simp [h.bufCap]
  buf := by simp [h.buf]
  view _ j hj := by
    simp only [hashBuffer_variant] at *
    have hn : j < s.variant.nh := lt_of_lt_of_le hj (nd_le_nh _)
    rw [slot_hashBuffer_lt s hn, slot_hashBuffer_lt t (h.variant ▸ hn), h.variant, h.buf]
  hHeld := by simp [h.hHeld, h.variant]
  digestValid := by simp
  fault := by simp [h.fault]
  faultCode := by simp [h.faultCode]
  rspOk := by simp [h.rspOk]
  rspData := by simp [h.rspData]
  y := by simp [h.y]
  pending := by simp [h.pending]

theorem count_sameView : s.count = t.count := congrArg List.length h.buf

/-- `STATUS` reads no hidden register and no hash word. -/
theorem statusWord_sameView : statusWord s = statusWord t := by
  simp only [statusWord, isFull, isReady, shownFaultCode, count_sameView h, h.bufCap, h.variant, h.fault, h.faultCode,
    h.digestValid]

/-- The word `DIGEST_RD` answers is in the view; one that is not held reads as the same free value (R301). -/
theorem digestWord_sameView (hd : s.digestValid = true) {j : Nat} (hj : j < s.variant.nd) :
    digestView s.variant j (readH s j) = digestView s.variant j (readH t j) := by
  unfold readH
  rw [← h.hHeld]
  split
  · exact (h.view hd j hj).trans (by rw [h.variant])
  · rfl

theorem unlessFaulted_sameView {f g : State → State} (hb : (f s).SameView (g t)) :
    NextSameView (unlessFaulted s f) (unlessFaulted t g) := by
  unfold unlessFaulted
  rw [← h.fault]
  split
  · exact next_sameView (respond_sameView h _ _)
  · exact next_sameView hb

theorem answer_sameView (ws : WSel) (result : Nat → Option Word) :
    NextSameView (answer ws result s) (answer ws result t) := by
  unfold answer
  cases ws.width?.bind result with
  | some y => exact next_sameView (setY_sameView h y)
  | none => exact next_sameView (raiseFault_sameView h _)

/-- Every instruction keeps the view: its checks and its response read what the two states share. -/
theorem exec_sameView (i : Instr) : NextSameView (exec i s) (exec i t) := by
  cases hi : i.isCommand with
  | false =>
    obtain ⟨ws, result, he⟩ := exec_request_eq_answer s.variant hi
    rw [he s rfl, he t h.variant.symm]
    exact answer_sameView h ws result
  | true =>
    cases i with
    | msgIn v =>
      simp only [exec, execMsgIn]
      refine unlessFaulted_sameView h ?_
      rw [← h.variant, ← count_sameView h, ← h.bufCap]
      exact check_sameView h _ fun _ => check_sameView h _ fun _ => respond_sameView (bufAppend_sameView h _) _ _
    | msgClear =>
      simp only [exec, execMsgClear]
      exact unlessFaulted_sameView h (respond_sameView (bufClear_sameView h) _ _)
    | hash =>
      simp only [exec, execHash]
      refine unlessFaulted_sameView h ?_
      rw [← count_sameView h]
      exact check_sameView h _ fun _ => check_sameView h _ fun _ => respond_sameView (hashBuffer_sameView h) _ _
    | digestRd k =>
      simp only [exec, execDigestRd]
      refine unlessFaulted_sameView h ?_
      rw [← h.digestValid, ← h.variant]
      refine check_sameView h _ fun hd => check_sameView h _ fun hk => ?_
      rw [digestWord_sameView h (by simpa using hd) (Nat.not_le.1 hk)]
      exact respond_sameView h _ _
    | statusRd =>
      simp only [exec, execStatusRd, statusWord_sameView h]
      exact next_sameView (respond_sameView h _ _)
    | padNeeded l =>
      simp only [exec, execPadNeeded]
      refine unlessFaulted_sameView h ?_
      rw [← h.variant]
      exact respond_sameView h _ _
    | padLen l =>
      simp only [exec, execPadLen]
      refine unlessFaulted_sameView h ?_
      rw [← h.variant]
      exact check_sameView h _ fun _ => respond_sameView h _ _
    | padByte k l =>
      simp only [exec, execPadByte]
      refine unlessFaulted_sameView h ?_
      rw [← h.variant]
      exact check_sameView h _ fun _ => check_sameView h _ fun _ => respond_sameView h _ _
    | and | or | xor | not | add | mul | shl | shr | rotl | rotr | const | testbit | select | band | bor | bnot
    | lookup => cases hi

theorem step_sameView : NextSameView (step s) (step t) := by
  have hp := h.pending
  rcases hs : s.pending with _ | ⟨⟨p⟩ | ⟨f⟩, rest⟩ <;> rw [hs] at hp
  · rw [step_of_idle hs, step_of_idle hp.symm]
    exact next_sameView h
  · have hrest := pending_sameView h rest
    cases hd : decode p with
    | ok i =>
      rw [step_of_instr hs hd, step_of_instr hp.symm hd]
      exact exec_sameView hrest i
    | error r =>
      rw [step_of_reject hs hd, step_of_reject hp.symm hd]
      exact next_sameView (raiseFault_sameView hrest _)
  · rw [step_of_reset hs, step_of_reset hp.symm]
    exact next_sameView (takeReset_sameView (pending_sameView h rest) f f)

end

/-- Settles O52: the view is a bisimulation, `step_sameView`. -/
theorem hiddenStateIsNeverObservable : Obligations.HiddenStateIsNeverObservable := by
  intro s t s' h hstep
  obtain ⟨u, t', e, e', hu⟩ := step_sameView h
  rw [hstep] at e
  cases e
  exact ⟨t', e', hu⟩

/-! ## The statements on single instructions and steps -/

/-- Settles O12: the three conditions are the three answers to "is `COUNT` 0" and "is it a multiple of 16". -/
theorem bufferStateIsOneOfThree : Obligations.BufferStateIsOneOfThree := by
  intro s
  by_cases h0 : s.count = 0
  · exact .inl (by simp [isEmpty, isBuffering, isReady, h0])
  · have hpos : 0 < s.count := Nat.pos_of_ne_zero h0
    by_cases h16 : s.count % 16 = 0
    · exact .inr (.inr (by simp [isEmpty, isBuffering, isReady, h0, hpos, h16]))
    · exact .inr (.inl (by simp [isEmpty, isBuffering, isReady, h0, hpos, h16]))

/-- The flags of `STATUS`, one bit each (R33). -/
theorem statusWord_flags (s : State) :
    (statusWord s).getLsbD 0 = s.digestValid ∧ (statusWord s).getLsbD 1 = s.fault ∧
      (statusWord s).getLsbD 2 = isReady s ∧ (statusWord s).getLsbD 3 = isFull s ∧
      (statusWord s).getLsbD 15 = s.variant.wide := by
  unfold statusWord
  repeat rw [BitVec.getLsbD_append]
  simp

/-- The fields of `STATUS` below `COUNT`, the reserved ones 0 (R33, R34). Each is found by passing the fields below
it and then dropping those above it. -/
theorem statusWord_fields (s : State) :
    (statusWord s).extractLsb' 4 4 = 0#4 ∧ (statusWord s).extractLsb' 8 4 = shownFaultCode s ∧
      (statusWord s).extractLsb' 12 3 = s.variant.ident ∧ (statusWord s).extractLsb' 16 16 = 0#16 := by
  unfold statusWord
  refine ⟨?_, ?_, ?_, ?_⟩
  all_goals
    repeat rw [BitVec.extractLsb'_append_eq_of_le (by omega)]
    rw [BitVec.extractLsb'_append_eq_of_add_le (by omega), BitVec.extractLsb'_eq_self]

theorem statusWord_count (s : State) : (statusWord s).extractLsb' 32 32 = BitVec.ofNat 32 s.count := by
  unfold statusWord
  repeat rw [BitVec.extractLsb'_append_eq_of_le (by omega)]
  rw [BitVec.extractLsb'_eq_self]

theorem wide_iff_w (v : Variant) : v.wide = true ↔ v.w = 64 := by cases v <;> decide

/-- Settles O10: `STATUS_RD` passes no gate, and the response is `statusWord`, field by field. -/
theorem statusReadReportsEveryField : Obligations.StatusReadReportsEveryField := by
  intro s
  obtain ⟨hvalid, hfault, hready, hfull, hwide⟩ := statusWord_flags s
  obtain ⟨hlow, hcode, hident, hhigh⟩ := statusWord_fields s
  refine ⟨statusWord s, rfl, hvalid, hfault, ?_, ?_, hlow, hcode, hident, ?_, hhigh, ?_⟩
  · rw [hready]
    simp [isReady]
  · rw [hfull]
    simp [isFull]
  · rw [hwide, wide_iff_w]
  · rw [statusWord_count, BitVec.toNat_ofNat]

/-- What a faulted engine keeps until reset (R27, R284). -/
def KeepsFaulted (s t : State) : Prop :=
  t.fault = true ∧ t.faultCode = s.faultCode ∧ t.h = s.h ∧ t.hHeld = s.hHeld ∧ t.hidden = s.hidden ∧
    t.digestValid = s.digestValid ∧ t.buf = s.buf

theorem raiseFault_keepsFaulted (c : FaultCode) (h : s.fault = true) : KeepsFaulted s (raiseFault c s) := by
  rw [raiseFault_of_fault s c h]
  exact ⟨h, rfl, rfl, rfl, rfl, rfl, rfl⟩

theorem ExecOutcome.keepsFaulted (h : ExecOutcome s i t) (hf : s.fault = true) : KeepsFaulted s t := by
  cases h with
  | refused | read | answered => exact ⟨hf, rfl, rfl, rfl, rfl, rfl, rfl⟩
  | violated => exact raiseFault_keepsFaulted _ hf
  | faulted _ _ _ hn | appended _ hn | cleared hn | hashed hn => simp [hf] at hn

theorem raiseFault_code_changed {c : FaultCode} (h : (raiseFault c s).faultCode ≠ s.faultCode) : s.fault = false := by
  by_contra hf
  simp [raiseFault_faultCode, hf] at h

theorem ExecOutcome.code_changed (h : ExecOutcome s i t) (hc : t.faultCode ≠ s.faultCode) :
    s.fault = false ∧ t.fault = true := by
  cases h with
  | faulted _ _ _ hn => exact ⟨hn, rfl⟩
  | violated => exact ⟨raiseFault_code_changed hc, raiseFault_fault _ _⟩
  | refused | read | appended | cleared | hashed | answered => simp at hc

/-- Settles O45, by the event the step takes. -/
theorem firstFaultIsKeptUntilReset : Obligations.FirstFaultIsKeptUntilReset := by
  intro s t hstep hreset
  rcases step_cases s with ⟨-, e⟩ | ⟨p, rest, i, -, -, e⟩ | ⟨p, rest, r, -, -, e⟩ | ⟨f, rest, hp, -⟩
  · cases e.symm.trans hstep
    exact ⟨fun hf => ⟨hf, rfl, rfl, rfl, rfl, rfl, rfl⟩, fun hc => absurd rfl hc⟩
  · have ho := exec_inv (e.symm.trans hstep)
    exact ⟨ho.keepsFaulted, ho.code_changed⟩
  · cases e.symm.trans hstep
    exact ⟨raiseFault_keepsFaulted (s := { s with pending := rest }) _,
      fun hc => ⟨raiseFault_code_changed (s := { s with pending := rest }) hc, raiseFault_fault _ _⟩⟩
  · exact absurd hp (hreset f rest)

theorem ExecOutcome.digestValid_iff (h : ExecOutcome s i t) :
    t.digestValid = true ↔ s.digestValid = true ∨ (i = .hash ∧ t.rspOk = true) := by
  by_cases hi : i = .hash
  · subst hi
    cases h with
    | hashed => simp
    | refused | faulted => simp
    | read _ hr => cases hr
    | answered _ hr | violated hr => cases hr
  · simp [(h.hash_state hi).2.2.2, hi]

/-- Settles O46, clause by clause: an instruction, a rejected word, a reset. -/
theorem digestValidTracksACompletedHash : Obligations.DigestValidTracksACompletedHash := by
  refine ⟨fun i s t h => (exec_inv h).digestValid_iff, fun s t p e rest hp hd hstep => ?_,
    fun s t f rest hp hstep => ?_⟩
  · cases (step_of_reject hp hd).symm.trans hstep
    exact raiseFault_digestValid _ _
  · cases (step_of_reset hp).symm.trans hstep
    rfl

/-- `BACKEND_CONTRACT` has code 10 (R272); a faulted engine keeps its first code (log entry 8). -/
theorem raiseFault_backendContract (s : State) : raiseFault .backendContract s =
    if s.fault then { s with rspOk := false, rspData := 0#64 } else recordsFault s 10#4 := rfl

/-- Settles O47: one frame lemma of `ExecOutcome` for each clause. -/
theorem instructionFrames : Obligations.InstructionFrames := by
  intro i s t h
  have ho := exec_inv h
  refine ⟨ho.variant, ho.bufCap, ho.pending, fun hm hc => ⟨ho.buf hm hc, fun k => ?_⟩, ?_, ho.hash_state, ho.y,
    fun hok hi => ho.faultRegs hi hok, fun hi => ?_⟩
  · rw [bufRead, bufRead, ho.buf hm hc]
  · rintro ⟨v, rfl⟩ k hk
    exact ho.bufRead_of_msgIn hk
  · rw [← raiseFault_backendContract]
    exact ho.request hi

end Sys2Proof.Machine
end

section
/-! SUPPORT. The statements of 20_memory.md: reads (R60), the packing of bytes into words (R52, R54), steps and runs of
encoded instructions (R63, R314). -/

namespace Sys2Proof.Machine

variable {s t : State} {i : Instr}

/-! ## Reads are idempotent (R60) -/

/-- A faulted engine refuses every command but `STATUS_RD` (R284). -/
theorem exec_of_fault (hc : i.isCommand = true) (hi : i ≠ .statusRd) (h : s.fault = true) :
    exec i s = .next (refuse s) := by
  cases i with
  | msgIn | msgClear | hash | digestRd | padNeeded | padLen | padByte =>
    simp only [exec, execMsgIn, execMsgClear, execHash, execDigestRd, execPadNeeded, execPadLen, execPadByte,
      unlessFaulted_of_fault s _ h]
  | statusRd => exact absurd rfl hi
  | and | or | xor | not | add | mul | shl | shr | rotl | rotr | const | testbit | select | band | bor | bnot
  | lookup => cases hc

/-- What a read does has no part of the response before it. -/
theorem exec_respond_of_isRead (hi : isRead i = true) (ok : Bool) (d : Word) (s : State) :
    exec i (respond ok d s) = exec i s := by
  cases i with
  | digestRd | statusRd | padNeeded | padLen | padByte => rfl
  | msgIn | msgClear | hash | and | or | xor | not | add | mul | shl | shr | rotl | rotr | const | testbit | select
  | band | bor | bnot | lookup => cases hi

/-- A read writes the response, and on a fault the fault registers. -/
theorem ExecOutcome.frame_of_isRead (h : ExecOutcome s i t) (hi : isRead i = true) :
    t = { s with fault := t.fault, faultCode := t.faultCode, rspOk := t.rspOk, rspData := t.rspData } := by
  cases h with
  | refused | faulted | read => rfl
  | appended | cleared | hashed => cases hi
  | answered _ hr | violated hr => simp [isCommand_of_isRead hi] at hr

/-- After a response or a refusal the read finds what it found before; after a fault of its own it is refused, and the
response was `(0, 0)` already. -/
theorem exec_idempotent_of_isRead (hi : isRead i = true) (h : exec i s = .next t) : exec i t = .next t := by
  cases exec_inv h with
  | refused | read => exact (exec_respond_of_isRead hi _ _ s).trans h
  | faulted c hc hm =>
    have hne : i ≠ .statusRd := by
      rintro rfl
      cases hm
    exact exec_of_fault hc hne rfl
  | appended | cleared | hashed => cases hi
  | answered _ hr | violated hr => simp [isCommand_of_isRead hi] at hr

/-- Settles O26: the frame of a read, and `exec_idempotent_of_isRead`. -/
theorem readsAreIdempotentAndWriteTheResponse : Obligations.ReadsAreIdempotentAndWriteTheResponse := by
  intro i s t hi h
  have ho := exec_inv h
  exact ⟨ho.frame_of_isRead hi, ho.faultRegs (isCommand_of_isRead hi), exec_idempotent_of_isRead hi h⟩

/-! ## Bytes and words (R52, R54) -/

/-- The `n` low bytes of a number, most significant first: `wordBytes` at any length (`wordBytes_eq`). -/
def beBytes (n x : Nat) : List Byte := (List.range n).map fun i => BitVec.ofNat 8 (x >>> (8 * (n - 1 - i)))

theorem wordBytes_eq (v : Variant) (x : Word) : wordBytes v x = beBytes (v.w / 8) x.toNat := rfl

theorem beNat_concat (bs : List Byte) (b : Byte) : beNat (bs ++ [b]) = 256 * beNat bs + b.toNat := by
  simp [beNat]

theorem beNat_lt (bs : List Byte) : beNat bs < 256 ^ bs.length := by
  induction bs using List.reverseRecOn with
  | nil => decide
  | append_singleton bs b ih =>
    have hb := b.isLt
    rw [beNat_concat, List.length_append, List.length_singleton, Nat.pow_succ]
    omega

/-- One byte more at the low end. -/
theorem beBytes_succ (n x : Nat) (b : Byte) : beBytes (n + 1) (256 * x + b.toNat) = beBytes n x ++ [b] := by
  have hb : (256 * x + b.toNat) >>> 8 = x := by
    have := b.isLt
    rw [Nat.shiftRight_eq_div_pow]
    omega
  have hlow : BitVec.ofNat 8 (256 * x + b.toNat) = b := by
    apply BitVec.eq_of_toNat_eq
    have := b.isLt
    rw [BitVec.toNat_ofNat]
    omega
  rw [beBytes, List.range_succ, List.map_append]
  congr 1
  · refine List.map_congr_left fun k hk => ?_
    have hk : k < n := List.mem_range.1 hk
    have he : 8 * (n + 1 - 1 - k) = 8 + 8 * (n - 1 - k) := by omega
    rw [he, Nat.shiftRight_add, hb]
  · simp [hlow]

theorem beBytes_beNat (bs : List Byte) : beBytes bs.length (beNat bs) = bs := by
  induction bs using List.reverseRecOn with
  | nil => rfl
  | append_singleton bs b ih => rw [beNat_concat, List.length_append, List.length_singleton, beBytes_succ, ih]

/-- A word's worth of bytes, packed, serializes to itself: it is a number below `2^64`. -/
theorem wordBytes_ofNat_beNat (v : Variant) (bs : List Byte) (h : bs.length = v.w / 8) :
    wordBytes v (BitVec.ofNat 64 (beNat bs)) = bs := by
  have hlt : beNat bs < 2 ^ 64 := calc
    beNat bs < 256 ^ bs.length := beNat_lt bs
    _ ≤ 256 ^ 8 := Nat.pow_le_pow_right (by decide) (by have := word_width_le v; omega)
    _ = 2 ^ 64 := by decide
  rw [wordBytes_eq, BitVec.toNat_ofNat, Nat.mod_eq_of_lt hlt, ← h, beBytes_beNat]

/-- The first `n` groups of `k` elements, put together. -/
theorem flatMap_range_groups {α : Type} (m : List α) (k n : Nat) :
    ((List.range n).flatMap fun j => (m.drop (j * k)).take k) = m.take (n * k) := by
  induction n with
  | zero => simp
  | succ n ih => rw [List.range_succ, List.flatMap_append, ih, List.flatMap_singleton, Nat.succ_mul, List.take_add]

/-- The words of a byte sequence serialize to the bytes of its whole groups. -/
theorem flatMap_wordBytes_packWords (v : Variant) (m : List Byte) :
    (packWords v m).flatMap (wordBytes v) = m.take (m.length / (v.w / 8) * (v.w / 8)) := by
  rw [packWords, List.flatMap_map, ← flatMap_range_groups]
  refine List.flatMap_congr fun j hj => wordBytes_ofNat_beNat v _ ?_
  have hgroup : (j + 1) * (v.w / 8) ≤ m.length :=
    (Nat.mul_le_mul_right _ (List.mem_range.1 hj)).trans (Nat.div_mul_le_self _ _)
  rw [Nat.succ_mul] at hgroup
  rw [List.length_take, List.length_drop]
  omega

/-- Settles O53: each group of bytes is the bytes of its word, and whole groups are the sequence. -/
theorem packingLosesNoByte : Obligations.PackingLosesNoByte := by
  intro v m h
  refine ⟨by simp [packWords], ?_⟩
  rw [flatMap_wordBytes_packWords, Nat.div_mul_cancel (Nat.dvd_of_mod_eq_zero h), List.take_length]

/-! ## Runs of encoded instructions (R63, R314) -/

/-- The encoding of an instruction decodes to it (R71 to R81). -/
theorem decode_encode (i : Instr) : decode (encode i) = .ok i := by
  cases i with
  | msgIn | msgClear | hash | digestRd | statusRd | padNeeded | padLen | padByte =>
    simp [encode, decode, decodeCommand, noImm]
  | and | or | xor | not | add | mul | shl | shr | rotl | rotr | const | testbit | select | band | bor | bnot
  | lookup => simp [encode, decode, decodeRequest]

/-- Only host commands are encoded as words of the command port (R70, R72). -/
theorem isCommand_of_port_eq_encode {c : Command} (h : c.port = encode i) : i.isCommand = true := by
  cases i with
  | msgIn | msgClear | hash | digestRd | statusRd | padNeeded | padLen | padByte => rfl
  | and | or | xor | not | add | mul | shl | shr | rotl | rotr | const | testbit | select | band | bor | bnot
  | lookup => cases h

/-- Settles O56, by induction on the instructions: a step on an encoding is the instruction. -/
theorem runOfEncodedCommandsIsTheInstructionsRun : Obligations.RunOfEncodedCommandsIsTheInstructionsRun := by
  intro is
  induction is with
  | nil =>
    intro cs s h
    rw [List.map_eq_nil_iff.1 h]
    rfl
  | cons i is ih =>
    intro cs s h
    obtain ⟨c, ds, rfl, hc, hds⟩ := List.map_eq_cons_iff.1 h
    obtain ⟨t, ht, -⟩ := exec_outcome i s
    have hstep : step (State.issue c.port s) = .next t := by rw [hc, step_issue_ok (decode_encode i), ht]
    rw [runCommands_cons hstep, runAll_cons ht, ih ds t hds, isCommand_of_port_eq_encode hc]
    rfl

/-! ## One step (R63, R293) -/

theorem decodeTableWord_eq_some {nbits w : Nat} :
    decodeTableWord nbits w = some i ↔ decode (tablePortWord nbits w) = .ok i := by
  unfold decodeTableWord
  cases decode (tablePortWord nbits w) <;> simp

/-- Settles O6: a step, by its oldest event. -/
theorem stepRunsTheDecodedInstruction : Obligations.StepRunsTheDecodedInstruction :=
  ⟨fun _ _ _ _ hp hd => step_of_instr hp hd, fun s _ _ _ hd => step_issue_ok (decodeTableWord_eq_some.1 hd) s,
    fun _ hp => step_of_idle hp, fun _ _ _ hp => ⟨_, step_of_reset hp, rfl⟩⟩

end Sys2Proof.Machine
end

section
/-! SUPPORT. The statements of 30_encoding.md: what each port's decoder can answer, said once (R71 to R79), the requests
that violate the backend's contract (R282), and the run of `HASH_MSG` (R82). -/

namespace Sys2Proof.Machine

variable {s : State} {cmd : BitVec 16} {arg : Word} {breq : BitVec 7}

/-! ## The command port (R71 to R76) -/

/-- The encoding is the command word, with `ARG` kept or, where it is not read (R74), 0. -/
def KeepsCommand (cmd : BitVec 16) (arg : Word) (i : Instr) : Prop :=
  encode i = .command cmd arg ∨ encode i = .command cmd 0#64

/-- What a command word can decode to, by its `OPC` and `IMM8`. -/
inductive CommandDecoding (cmd : BitVec 16) (arg : Word) : Except Reject Instr → Prop where
  /-- A row that takes no immediate, with `IMM8 = 0` (R73). -/
  | plain {i : Instr} : (opcOf cmd).toNat ∈ [0x01, 0x02, 0x03, 0x05, 0x10, 0x11] → imm8Of cmd = 0#8 →
      KeepsCommand cmd arg i → CommandDecoding cmd arg (.ok i)
  /-- A row that takes an immediate: `DIGEST_RD` or `PAD_BYTE` (R72). -/
  | immediate {i : Instr} : (opcOf cmd).toNat ∈ [0x04, 0x12] → KeepsCommand cmd arg i → CommandDecoding cmd arg (.ok i)
  /-- A row that takes no immediate, with `IMM8 ≠ 0` (R73). -/
  | immediateNotZero : (opcOf cmd).toNat ∈ [0x01, 0x02, 0x03, 0x05, 0x10, 0x11] → imm8Of cmd ≠ 0#8 →
      CommandDecoding cmd arg (.error .immediateNotZero)
  /-- No row (R75). -/
  | illegalOpcode : (opcOf cmd).toNat ∉ [0x01, 0x02, 0x03, 0x04, 0x05, 0x10, 0x11, 0x12] →
      CommandDecoding cmd arg (.error .illegalOpcode)

theorem cmdWord_eq {opc imm : BitVec 8} (ho : opcOf cmd = opc) (hi : imm8Of cmd = imm) : cmdWord opc imm = cmd := by
  rw [← ho, ← hi, cmdWord_fields]

theorem noImm_decoding {opc : BitVec 8} {i : Instr} (ho : opcOf cmd = opc)
    (hrow : opc.toNat ∈ [0x01, 0x02, 0x03, 0x05, 0x10, 0x11]) (he : KeepsCommand (cmdWord opc 0#8) arg i) :
    CommandDecoding cmd arg (noImm (imm8Of cmd) i) := by
  subst ho
  unfold noImm
  split
  · next hi =>
    rw [cmdWord_eq rfl hi] at he
    exact .plain hrow hi he
  · next hi => exact .immediateNotZero hrow hi

theorem decodeCommand_decoding (cmd : BitVec 16) (arg : Word) : CommandDecoding cmd arg (decodeCommand cmd arg) := by
  simp only [decodeCommand]
  split_ifs with h1 h2 h3 h4 h5 h6 h7 h8
  · exact noImm_decoding h1 (by decide) (.inl rfl)
  · exact noImm_decoding h2 (by decide) (.inr rfl)
  · exact noImm_decoding h3 (by decide) (.inr rfl)
  · exact .immediate (by simp [h4]) (.inr (by rw [encode, cmdWord_eq h4 rfl]))
  · exact noImm_decoding h5 (by decide) (.inr rfl)
  · exact noImm_decoding h6 (by decide) (.inl rfl)
  · exact noImm_decoding h7 (by decide) (.inl rfl)
  · exact .immediate (by simp [h8]) (.inl (by rw [encode, cmdWord_eq h8 rfl]))
  · refine .illegalOpcode ?_
    simp only [List.mem_cons, List.not_mem_nil, or_false]
    bv_omega

/-- Settles O2: the four cases of `decodeCommand_decoding` exclude each other. -/
theorem commandWordDecodesOrIsRejectedByName : Obligations.CommandWordDecodesOrIsRejectedByName := by
  intro cmd arg
  have hplain : ∀ n ∈ [0x01, 0x02, 0x03, 0x05, 0x10, 0x11],
      n ∉ [0x04, 0x12] ∧ n ∈ [0x01, 0x02, 0x03, 0x04, 0x05, 0x10, 0x11, 0x12] := by decide
  have himm : ∀ n ∈ [0x04, 0x12],
      n ∉ [0x01, 0x02, 0x03, 0x05, 0x10, 0x11] ∧ n ∈ [0x01, 0x02, 0x03, 0x04, 0x05, 0x10, 0x11, 0x12] := by decide
  have h := decodeCommand_decoding cmd arg
  generalize decodeCommand cmd arg = r at h
  cases h with
  | plain ho hi =>
    exact ⟨iff_of_true ⟨_, rfl⟩ (.inl ⟨ho, hi⟩), iff_of_false nofun fun hn => hn (hplain _ ho).2,
      iff_of_false nofun fun hn => hn.2 hi⟩
  | immediate ho =>
    exact ⟨iff_of_true ⟨_, rfl⟩ (.inr ho), iff_of_false nofun fun hn => hn (himm _ ho).2,
      iff_of_false nofun fun hn => (himm _ ho).1 hn.1⟩
  | immediateNotZero ho hi =>
    refine ⟨iff_of_false nofun ?_, iff_of_false nofun fun hn => hn (hplain _ ho).2, iff_of_true rfl ⟨ho, hi⟩⟩
    rintro (⟨-, hz⟩ | hm)
    · exact hi hz
    · exact (hplain _ ho).1 hm
  | illegalOpcode ho =>
    refine ⟨iff_of_false nofun ?_, iff_of_true rfl ho, iff_of_false nofun fun hn => ho (hplain _ hn.1).2⟩
    rintro (⟨hm, -⟩ | hm)
    · exact ho (hplain _ hm).2
    · exact ho (himm _ hm).2

/-! ## The request port (R77 to R79) -/

/-- What a request word can decode to, by its `BOP` and `WSEL`. -/
inductive RequestDecoding (breq : BitVec 7) : Except Reject Instr → Prop where
  /-- An operation that reads `WSEL` (R78): its encoding keeps the request word, and it is answered at that width. -/
  | word {i : Instr} {o : ReqOperands} : (bopOf breq).toNat ∉ [0x0D, 0x0E, 0x0F] → (bopOf breq).toNat < 0x11 →
      encode i = .request breq o → (∀ s, ∃ result, exec i s = answer (wselOf breq) result s) →
      RequestDecoding breq (.ok i)
  /-- A boolean operation, which does not read `WSEL` (R114 to R116): its encoding has the same `BOP`. -/
  | boolean {i : Instr} {o : ReqOperands} : (bopOf breq).toNat ∈ [0x0D, 0x0E, 0x0F] →
      encode i = .request (breqWord (bopOf breq) .w8) o → RequestDecoding breq (.ok i)
  /-- No row (R79). -/
  | reservedBop : 0x11 ≤ (bopOf breq).toNat → RequestDecoding breq (.error .reservedBop)

theorem word_decoding {bop : BitVec 5} {i : Instr} {o : ReqOperands} (hb : bopOf breq = bop)
    (hrow : bop.toNat ∉ [0x0D, 0x0E, 0x0F] ∧ bop.toNat < 0x11)
    (he : encode i = .request (breqWord bop (wselOf breq)) o)
    (hx : ∀ s, ∃ result, exec i s = answer (wselOf breq) result s) : RequestDecoding breq (.ok i) := by
  subst hb
  rw [breqWord_fields] at he
  exact .word hrow.1 hrow.2 he hx

theorem boolean_decoding {bop : BitVec 5} {i : Instr} {o : ReqOperands} (hb : bopOf breq = bop)
    (hrow : bop.toNat ∈ [0x0D, 0x0E, 0x0F]) (he : encode i = .request (breqWord bop .w8) o) :
    RequestDecoding breq (.ok i) := by
  subst hb
  exact .boolean hrow he

/-- Row by row in the order of R79: thirteen that read `WSEL`, the three boolean ones, and `LOOKUP`. -/
theorem decodeRequest_decoding (breq : BitVec 7) (o : ReqOperands) : RequestDecoding breq (decodeRequest breq o) := by
  unfold decodeRequest
  iterate 13
    refine iteInduction (motive := RequestDecoding breq)
      (fun h => word_decoding h (by decide) rfl fun _ => ⟨_, rfl⟩) fun _ => ?_
  iterate 3
    refine iteInduction (motive := RequestDecoding breq) (fun h => boolean_decoding h (by decide) rfl) fun _ => ?_
  refine iteInduction (motive := RequestDecoding breq)
    (fun h => word_decoding h (by decide) rfl fun _ => ⟨_, rfl⟩) fun _ => .reservedBop ?_
  bv_omega

/-- Settles O3: what `CommandDecoding` and `RequestDecoding` say of the encoding. -/
theorem encodeOfDecodeKeepsTheWord : Obligations.EncodeOfDecodeKeepsTheWord := by
  refine ⟨fun cmd arg i hd => ?_, fun breq o i hd => ?_⟩
  · have h := decodeCommand_decoding cmd arg
    rw [hd] at h
    cases h with
    | plain _ _ he | immediate _ he => exact he
  · have h := decodeRequest_decoding breq o
    rw [hd] at h
    cases h with
    | word _ _ he => exact ⟨_, _, he, rfl, fun _ => rfl⟩
    | boolean hb he => exact ⟨_, _, he, bopOf_breqWord _ _, fun hn => absurd hb hn⟩

/-- Settles O5: each word is decoded by the field tables. -/
theorem writtenOutWordsDecode : Obligations.WrittenOutWordsDecode := ⟨rfl, rfl, rfl, rfl, rfl⟩

/-! ## What the decoder does not read has no part in the step (R74) -/

/-- A step reads a port word through the decoder alone. -/
theorem step_congr_decode {p q : PortWord} (h : decode p = decode q) (s : State) (rest : List PortEvent) :
    step { s with pending := .transaction p :: rest } = step { s with pending := .transaction q :: rest } := by
  simp only [step, takeEvent, h]

/-- Settles O4: only the rows of the four opcodes pass `ARG` on. -/
theorem unreadArgIsIgnored : Obligations.UnreadArgIsIgnored := by
  intro cmd arg arg' h
  have hd : decodeCommand cmd arg = decodeCommand cmd arg' := by
    simp only [List.mem_cons, List.not_mem_nil, or_false, not_or] at h
    simp [decodeCommand, BitVec.toNat_eq, h]
  exact ⟨hd, step_congr_decode hd⟩

/-! ## Requests that violate the backend's contract (R78, R79, R282) -/

theorem wselOf_eq_reserved (h : breq.extractLsb' 5 2 = 0b11#2) : wselOf breq = .reserved := by
  rw [wselOf, h]
  rfl

/-- Settles O40: a reserved `BOP` does not decode, and a reserved `WSEL` that is read is answered by no width. -/
theorem reservedRequestRaisesBackendContract : Obligations.ReservedRequestRaisesBackendContract := by
  intro s breq o rest hf hp hv
  have hraise : raiseFault .backendContract { s with pending := rest } = recordsFault { s with pending := rest } 10#4 :=
    raiseFault_of_noFault _ _ hf
  rw [← hraise]
  have h := decodeRequest_decoding breq o
  cases hd : decodeRequest breq o with
  | error e =>
    rw [hd] at h
    cases h
    exact step_of_reject hp hd
  | ok i =>
    rw [hd] at h
    rw [step_of_instr hp hd]
    cases h with
    | word _ hb _ hx =>
      obtain ⟨hw, -⟩ | hge := hv
      · obtain ⟨result, e⟩ := hx { s with pending := rest }
        rw [e, wselOf_eq_reserved hw, answer_reserved]
      · omega
    | boolean hb =>
      obtain ⟨-, hn⟩ | hge := hv
      · exact absurd hb hn
      · simp only [List.mem_cons, List.not_mem_nil, or_false] at hb
        omega

/-! ## Runs of instructions (R63, R82) -/

/-- A run of two parts is the run of the second from the end of the first. -/
theorem runAll_append {is : List Instr} {s t : State} {rs : List Response} (h : runAll is s = some (rs, t))
    (js : List Instr) : runAll (is ++ js) s = (runAll js t).map fun q => (rs ++ q.1, q.2) := by
  induction is generalizing s rs with
  | nil => cases h; cases hj : runAll js t <;> simp [hj]
  | cons i is ih =>
    obtain ⟨u, hu, -⟩ := exec_outcome i s
    rw [runAll_cons hu] at h
    obtain ⟨⟨qs, t'⟩, hq, e⟩ := Option.map_eq_some_iff.1 h
    cases e
    rw [List.cons_append, runAll_cons hu, ih hq, Option.map_map]
    congr 1
    funext q
    cases i.isCommand <;> rfl

/-- The operand of `MSG_IN` is in range exactly when it is a word of the width (R180). -/
theorem wordTyped_iff_fits (v : Variant) (x : Word) : wordTyped v x = true ↔ Word.fits v.w x = true := by
  have hx := x.isLt
  have hhigh : x.extractLsb' 32 32 = 0#32 ↔ x.toNat < 2 ^ 32 := by
    rw [← BitVec.toNat_inj, BitVec.extractLsb'_toNat, Nat.shiftRight_eq_div_pow, BitVec.toNat_ofNat]
    omega
  cases hv : v.wide
  · simp [wordTyped, Word.fits, Variant.w, hv, hhigh]
  · simpa [wordTyped, Word.fits, Variant.w, hv] using hx

theorem count_bufAppend (x : Word) (s : State) : (bufAppend x s).count = s.count + 1 := by simp [State.count]

/-- `MSG_IN` of a word of the width, below capacity (R180). -/
theorem exec_msgIn (hf : s.fault = false) {x : Word} (hx : Word.fits s.variant.w x = true) (hc : s.count ≠ s.bufCap) :
    exec (.msgIn x) s = .next (respond true 0#64 (bufAppend x s)) := by
  rw [exec, execMsgIn, unlessFaulted_of_noFault _ _ hf]
  simp [(wordTyped_iff_fits _ _).2 hx, hc, lane_take_of_fits x hx]

/-- A sequence of words of the width that fits the capacity is appended in order (R181). The start's response is the
one every `MSG_IN` gives, so that the empty sequence is no special case. -/
theorem runAll_msgInSeq (words : List Word) (s : State) (hf : s.fault = false)
    (hw : ∀ x ∈ words, Word.fits s.variant.w x = true) (hc : s.count + words.length ≤ s.bufCap) :
    runAll (msgInSeq words) (respond true 0#64 s) =
      some (words.map fun _ => ⟨true, 0#64⟩, respond true 0#64 { s with buf := s.buf ++ words }) := by
  induction words generalizing s with
  | nil => simp [msgInSeq]
  | cons x xs ih =>
    rw [List.length_cons] at hc
    have hx : exec (.msgIn x) (respond true 0#64 s) = .next (respond true 0#64 (bufAppend x s)) :=
      exec_msgIn hf (hw x List.mem_cons_self) (show s.count ≠ s.bufCap by omega)
    have hrest := ih (bufAppend x s) hf (fun y hy => hw y (List.mem_cons_of_mem x hy))
      (by rw [count_bufAppend, bufAppend_bufCap]; omega)
    rw [msgInSeq] at *
    rw [List.map_cons, runAll_cons hx, hrest]
    simp [bufAppend, Instr.isCommand, responseOf]

/-- Reads that complete respond one after another and leave `FAULT` alone, since none reads the response before it
(R60). -/
theorem runAll_reads {α : Type} {f : α → Instr} {d : α → Word} (js : List α) (s : State)
    (hr : ∀ j ∈ js, isRead (f j) = true) (hd : ∀ j ∈ js, exec (f j) s = .next (respond true (d j) s)) :
    ∃ t, runAll (js.map f) s = some (js.map fun j => ⟨true, d j⟩, t) ∧ t.fault = s.fault := by
  induction js generalizing s with
  | nil => exact ⟨s, rfl, rfl⟩
  | cons j js ih =>
    obtain ⟨hrj, hrs⟩ := List.forall_mem_cons.1 hr
    obtain ⟨hdj, hds⟩ := List.forall_mem_cons.1 hd
    obtain ⟨t, ht, hft⟩ := ih (respond true (d j) s) hrs fun k hk =>
      (exec_respond_of_isRead (hrs k hk) _ _ s).trans (hds k hk)
    refine ⟨t, ?_, hft⟩
    rw [List.map_cons, runAll_cons hdj, ht]
    simp [isCommand_of_isRead hrj, responseOf]

/-! ## `HASH_MSG` (R82) -/

theorem exec_msgClear (hf : s.fault = false) : exec .msgClear s = .next (respond true 0#64 (bufClear s)) :=
  unlessFaulted_of_noFault s (fun s => respond true 0#64 (bufClear s)) hf

/-- `HASH` of a positive number of whole blocks completes (R183). -/
theorem exec_hash (hf : s.fault = false) (h0 : s.count ≠ 0) (h16 : s.count % 16 = 0) :
    exec .hash s = .next (respond true 0#64 (hashBuffer s)) := by
  rw [exec, execHash, unlessFaulted_of_noFault _ _ hf]
  simp [h0, h16]

/-- `DIGEST_RD` of a digest word (R189). -/
theorem exec_digestRd {i : BitVec 8} (hf : s.fault = false) (hd : s.digestValid = true) (hi : i.toNat < s.variant.nd) :
    exec (.digestRd i) s = .next (respond true (digestView s.variant i.toNat (readH s i.toNat)) s) := by
  rw [exec, execDigestRd, unlessFaulted_of_noFault _ _ hf]
  simp [hd, hi]

/-- A digest word read after a `HASH` is one of the buffer's hash words (R187, R189). -/
theorem readH_hashBuffer {j : Nat} (hj : j < s.variant.nd) (ok : Bool) (d : Word) :
    readH (respond ok d (hashBuffer s)) j = slot (hashWords s.variant s.buf) j := by
  have hn : j < s.variant.nh := lt_of_lt_of_le hj (nd_le_nh _)
  rw [readH_of_held _ _ (by simp [hn]), respond_h, slot_hashBuffer_lt s hn]

/-- `HASH` and `DIGEST_ALL` on a positive number of whole blocks (R82, R183, R189). -/
theorem runAll_hash_digestAll {v : Variant} {words : List Word} (hv : s.variant = v) (hb : s.buf = words)
    (hf : s.fault = false) (h0 : words.length ≠ 0) (h16 : words.length % 16 = 0) :
    ∃ t, runAll (.hash :: digestAll v) s = some (⟨true, 0#64⟩ :: (List.range v.nd).map fun i =>
      ⟨true, digestView v i (slot (hashWords v words) i)⟩, t) ∧ t.fault = false := by
  subst hv hb
  obtain ⟨t, ht, hft⟩ := runAll_reads (List.range s.variant.nd) (respond true 0#64 (hashBuffer s))
    (f := fun i => .digestRd (BitVec.ofNat 8 i))
    (d := fun i => digestView s.variant i (slot (hashWords s.variant s.buf) i)) (fun _ _ => rfl) fun j hj => by
      have hj : j < s.variant.nd := List.mem_range.1 hj
      have hj8 : (BitVec.ofNat 8 j).toNat = j := by
        have := nd_le_nh s.variant
        have := nh_le s.variant
        rw [BitVec.toNat_ofNat]
        omega
      rw [exec_digestRd (by simp [hf]) (by simp) (by simp [hj8, hj]), hj8, readH_hashBuffer hj]
      simp
  refine ⟨t, ?_, by simpa [hf] using hft⟩
  rw [digestAll, runAll_cons (exec_hash hf h0 h16), ht]
  rfl

/-- `MSG_CLEAR`, a sequence of words that fills whole blocks within the capacity, `HASH` and `DIGEST_ALL` (R82). -/
theorem runAll_hashMsg {words : List Word} (hf : s.fault = false)
    (hw : ∀ x ∈ words, Word.fits s.variant.w x = true) (hc : words.length ≤ s.bufCap) (h0 : words.length ≠ 0)
    (h16 : words.length % 16 = 0) :
    ∃ t, runAll (.msgClear :: (msgInSeq words ++ .hash :: digestAll s.variant)) s =
      some (⟨true, 0#64⟩ :: (words.map (fun _ => ⟨true, 0#64⟩) ++ ⟨true, 0#64⟩ ::
        (List.range s.variant.nd).map fun i => ⟨true, digestView s.variant i (slot (hashWords s.variant words) i)⟩),
        t) ∧ t.fault = false := by
  have hin : runAll (msgInSeq words) (respond true 0#64 (bufClear s)) =
      some (words.map fun _ => ⟨true, 0#64⟩, respond true 0#64 { s with buf := words }) :=
    runAll_msgInSeq words (bufClear s) hf hw (by simpa [State.count] using hc)
  obtain ⟨t, ht, hft⟩ := runAll_hash_digestAll (s := respond true 0#64 { s with buf := words }) (v := s.variant)
    (words := words) rfl rfl hf h0 h16
  refine ⟨t, ?_, hft⟩
  rw [runAll_cons (exec_msgClear hf), runAll_append hin, ht]
  rfl

/-- A block is sixteen words (R4). -/
theorem blockBytes_eq (v : Variant) : v.bb / 8 = 16 * (v.w / 8) := by cases v <;> decide

/-- The padded message is a positive number of whole blocks (R162, R167). -/
theorem paddedMessage_length (v : Variant) (m : List Byte) :
    (paddedMessage v m).length ≠ 0 ∧ (paddedMessage v m).length % (v.bb / 8) = 0 := by
  simp only [paddedMessage, padBytes, padLength, padZeros, Variant.bb, Variant.lf, List.length_append, List.length_map,
    List.length_range]
  split <;> omega

theorem packWords_length (v : Variant) (m : List Byte) : (packWords v m).length = m.length / (v.w / 8) := by
  simp [packWords]

/-- Its words are a positive multiple of sixteen. -/
theorem packWords_paddedMessage_length (v : Variant) (m : List Byte) :
    (packWords v (paddedMessage v m)).length ≠ 0 ∧ (packWords v (paddedMessage v m)).length % 16 = 0 := by
  obtain ⟨hpos, hblocks⟩ := paddedMessage_length v m
  rw [packWords_length]
  rw [blockBytes_eq] at hblocks
  rcases word_width_cases v with hw | hw <;> rw [hw] at hblocks ⊢ <;> omega

/-- A packed word is a word of the width (R52). -/
theorem packWords_fit (v : Variant) (m : List Byte) : ∀ x ∈ packWords v m, Word.fits v.w x = true := by
  intro x hx
  obtain ⟨k, -, rfl⟩ := List.mem_map.1 hx
  have hbits : 256 ^ (v.w / 8) = 2 ^ v.w := by rcases word_width_cases v with hw | hw <;> rw [hw] <;> norm_num
  rw [Word.fits, decide_eq_true_eq, packWord, BitVec.toNat_ofNat]
  calc
    _ ≤ beNat ((m.drop (k * (v.w / 8))).take (v.w / 8)) := Nat.mod_le _ _
    _ < 256 ^ ((m.drop (k * (v.w / 8))).take (v.w / 8)).length := beNat_lt _
    _ ≤ 256 ^ (v.w / 8) := Nat.pow_le_pow_right (by decide) (List.length_take_le _ _)
    _ = 2 ^ v.w := hbits

/-- Settles O54: the run of `runAll_hashMsg` on the words of the padded message. -/
theorem hashMsgReturnsTheDigest : Obligations.HashMsgReturnsTheDigest := by
  intro s m hf _ hcap
  obtain ⟨h0, h16⟩ := packWords_paddedMessage_length s.variant m
  have hc : (packWords s.variant (paddedMessage s.variant m)).length ≤ s.bufCap := by
    rw [packWords_length]
    exact Nat.div_le_of_le_mul (Nat.mul_comm _ _ ▸ hcap)
  obtain ⟨t, ht, hft⟩ := runAll_hashMsg hf (packWords_fit _ _) hc h0 h16
  refine ⟨_, t, ht, hft, ?_, ?_⟩
  · simp only [List.forall_mem_cons, List.forall_mem_append, List.forall_mem_map, implies_true, and_self]
  · rw [← List.cons_append, List.append_cons]
    exact List.drop_left' (by simp; omega)

end Sys2Proof.Machine
end

section
/-! SUPPORT. The statements of 41_wordops.md: a request is answered from its width and its operands (R100); the bits and
the values of a lane; the rotates (R109, R110); then each statement, from what `answer` gives. -/

namespace Sys2Proof.Machine

variable {ws : WSel} {w : Nat} {s : State}

/-! ## What a request is answered with (R100) -/

/-- A request with no width, or with no result at its width, records `BACKEND_CONTRACT` (R282). -/
theorem answer_recordsFault {result : Nat → Option Word} (hf : s.fault = false) (h : ws.width?.bind result = none) :
    answer ws result s = .next (recordsFault s 10#4) := by
  rw [answer, h]
  exact congrArg Host.Outcome.next (raiseFault_of_noFault _ _ hf)

/-- An amount below the width is admitted (R107 to R110, R112). -/
theorem answer_withAmount {n : BitVec 7} (f : Nat → Word) (s : State) (hw : ws.width? = some w) (hn : n.toNat < w) :
    answer ws (fun w => withAmount n w (f w)) s = .next { s with y := f w } :=
  answer_some ws _ s w _ hw (if_pos hn)

/-- An amount at or above the width is a contract violation (R107 to R110, R112). -/
theorem answer_withAmount_ge {n : BitVec 7} (f : Nat → Word) (hf : s.fault = false) (hw : ws.width? = some w)
    (hn : w ≤ n.toNat) : answer ws (fun w => withAmount n w (f w)) s = .next (recordsFault s 10#4) :=
  answer_recordsFault hf (by rw [hw]; exact if_neg hn.not_gt)

/-! ## Lanes (R55) -/

theorem getLsbD_lane (hw : w ≤ 64) (x : BitVec w) (k : Nat) : (lane x).getLsbD k = x.getLsbD k := by
  rw [lane, BitVec.getLsbD_setWidth, Bool.and_eq_right_iff_imp, decide_eq_true_eq]
  exact fun h => (BitVec.lt_of_getLsbD h).trans_le hw

theorem toNat_lane (hw : w ≤ 64) (x : BitVec w) : (lane x).toNat = x.toNat :=
  BitVec.toNat_setWidth_of_le hw

theorem toNat_take {x : Word} (hx : x.toNat < 2 ^ w) : (Word.take w x).toNat = x.toNat :=
  (BitVec.toNat_setWidth ..).trans (Nat.mod_eq_of_lt hx)

theorem getLsbD_take {x : Word} (hx : x.toNat < 2 ^ w) (k : Nat) : (Word.take w x).getLsbD k = x.getLsbD k := by
  rw [BitVec.getLsbD, BitVec.getLsbD, toNat_take hx]

theorem boolLane_eq (b : Bool) : boolLane b = if b then 1#64 else 0#64 := by cases b <;> rfl

/-! ## Rotates (R109, R110) -/

theorem opRotr_eq_rotateRight (x : BitVec w) {n : Nat} (hn : n < w) : opRotr x n = x.rotateRight n := by
  rw [BitVec.rotateRight_def, Nat.mod_eq_of_lt hn, opRotr]
  split
  · next h => simp [h]
  · rfl

/-- A left rotate is the right rotate by the amount's complement. -/
theorem opRotl_eq_opRotr (x : BitVec w) {n : Nat} (hn : n < w) : opRotl x n = opRotr x ((w - n) % w) := by
  rcases Nat.eq_zero_or_pos n with rfl | h0
  · simp [opRotl, opRotr]
  · rw [Nat.mod_eq_of_lt (by omega), opRotl, opRotr, if_neg (by omega), if_neg (by omega), BitVec.or_comm,
      Nat.sub_sub_self hn.le]

theorem getLsbD_opRotr (x : BitVec w) {n : Nat} (hn : n < w) (k : Nat) :
    (opRotr x n).getLsbD k = (decide (k < w) && x.getLsbD ((k + n) % w)) := by
  rw [opRotr_eq_rotateRight x hn, BitVec.getLsbD_rotateRight, Nat.mod_eq_of_lt hn]
  by_cases hlow : k < w - n
  · rw [Nat.mod_eq_of_lt (by omega)]
    simp [hlow, Nat.add_comm, show k < w by omega]
  · by_cases hk : k < w
    · have hmod : (k + n) % w = k - (w - n) := by
        rw [Nat.mod_eq_sub_mod (by omega), Nat.mod_eq_of_lt (by omega)]
        omega
      simp [hlow, hk, hmod]
    · simp [hlow, hk]

theorem getLsbD_opRotl (x : BitVec w) {n : Nat} (hn : n < w) (k : Nat) :
    (opRotl x n).getLsbD k = (decide (k < w) && x.getLsbD ((k + (w - n)) % w)) := by
  rw [opRotl_eq_opRotr x hn, getLsbD_opRotr x (Nat.mod_lt _ (by omega)), Nat.add_mod_mod]

/-! ## The constant ROM (R36, R117) -/

theorem rom_length (v : Variant) (tsel : Bool) :
    (v.rom tsel).length = if tsel then v.nh else if v = .sha1 then 4 else v.rounds := by
  cases tsel <;> cases v <;> rfl

/-! ## Word operations -/

/-- Settles O32: each operation's bits, on lanes that hold words of the width. -/
theorem bitwiseRequestsAnswerBitByBit : Obligations.BitwiseRequestsAnswerBitByBit := by
  intro ws w a b s hw ha hb
  have h64 := width_le hw
  refine ⟨⟨_, answer_some ws _ s w _ hw rfl, fun k => ?_⟩, ⟨_, answer_some ws _ s w _ hw rfl, fun k => ?_⟩,
    ⟨_, answer_some ws _ s w _ hw rfl, fun k => ?_⟩, ⟨_, answer_some ws _ s w _ hw rfl, fun k => ?_⟩⟩
  · rw [getLsbD_lane h64, opAnd, BitVec.getLsbD_and, getLsbD_take ha, getLsbD_take hb]
  · rw [getLsbD_lane h64, opOr, BitVec.getLsbD_or, getLsbD_take ha, getLsbD_take hb]
  · rw [getLsbD_lane h64, opXor, BitVec.getLsbD_xor, getLsbD_take ha, getLsbD_take hb]
  · rw [getLsbD_lane h64, opNot, BitVec.allOnes_xor, BitVec.getLsbD_not, getLsbD_take ha]

/-- Settles O33: the sum and the product of words of the width are taken at that width. -/
theorem addAndMulAnswerModuloTheWidth : Obligations.AddAndMulAnswerModuloTheWidth := by
  intro ws w a b s hw ha hb
  have h64 := width_le hw
  refine ⟨⟨_, answer_some ws _ s w _ hw rfl, ?_⟩, ⟨_, answer_some ws _ s w _ hw rfl, ?_⟩⟩
  · rw [toNat_lane h64, opAdd, BitVec.toNat_add, toNat_take ha, toNat_take hb]
  · rw [toNat_lane h64, opMul, BitVec.toNat_mul, toNat_take ha, toNat_take hb]

/-- Settles O34: a shift is a product or a quotient by a power of two. -/
theorem shiftsAnswerBelowTheWidth : Obligations.ShiftsAnswerBelowTheWidth := by
  intro ws w a n s hw ha hn
  have h64 := width_le hw
  refine ⟨⟨_, answer_withAmount _ s hw hn, ?_⟩, ⟨_, answer_withAmount _ s hw hn, ?_⟩⟩
  · rw [toNat_lane h64, opShl, BitVec.toNat_shiftLeft, toNat_take ha, Nat.shiftLeft_eq]
  · rw [toNat_lane h64, opShr, BitVec.toNat_ushiftRight, toNat_take ha, Nat.shiftRight_eq_div_pow]

/-- Settles O35: the bits of the rotates, and a right rotate as the left rotate by the complement. -/
theorem rotatesMoveEveryBit : Obligations.RotatesMoveEveryBit := by
  intro ws w a n s hw ha hn
  have h64 := width_le hw
  have hm : (w - n.toNat) % w < w := Nat.mod_lt _ (by omega)
  have hc : (BitVec.ofNat 7 ((w - n.toNat) % w)).toNat = (w - n.toNat) % w :=
    (BitVec.toNat_ofNat ..).trans (Nat.mod_eq_of_lt (by omega))
  refine ⟨⟨_, answer_withAmount _ s hw hn, fun k => ?_⟩, ⟨_, answer_withAmount _ s hw hn, fun k => ?_, ?_⟩⟩
  · rw [getLsbD_lane h64, getLsbD_opRotl _ hn, getLsbD_take ha]
  · rw [getLsbD_lane h64, getLsbD_opRotr _ hn, getLsbD_take ha]
  · have hback : (w - (w - n.toNat) % w) % w = n.toNat := by
      rcases Nat.eq_zero_or_pos n.toNat with h0 | h0
      · simp [h0]
      · rw [Nat.mod_eq_of_lt (a := w - n.toNat) (by omega), Nat.sub_sub_self hn.le, Nat.mod_eq_of_lt hn]
    rw [exec, execRotl, answer_withAmount _ s hw (hc.trans_lt hm), hc, opRotl_eq_opRotr _ hm, hback]

/-- Settles O36: the operation has no result at the width, so `answer` records the fault. -/
theorem outOfRangeOperandsRaiseBackendContract : Obligations.OutOfRangeOperandsRaiseBackendContract := by
  intro ws w a n s hw hf
  refine ⟨fun hn => ?_, fun ha => answer_recordsFault hf (by rw [hw]; exact if_neg ha.not_gt)⟩
  have h := fun f => answer_withAmount_ge f hf hw hn
  exact ⟨h _, h _, h _, h _, h _⟩

/-- Settles O37: the literal, the bit and the selected word are what stands on their lanes. -/
theorem constTestbitAndSelectAnswer : Obligations.ConstTestbitAndSelectAnswer := by
  intro ws w a b s hw ha hb
  have hla : lane (Word.take w a) = a := lane_take_of_fits a (decide_eq_true ha)
  have hlb : lane (Word.take w b) = b := lane_take_of_fits b (decide_eq_true hb)
  refine ⟨answer_some ws _ s w a hw ?_, fun n hn => ?_, answer_some ws _ s w a hw ?_, answer_some ws _ s w b hw ?_⟩
  · rw [if_pos ha, hla]
  · rw [exec, execTestbit, answer_withAmount _ s hw hn, boolLane_eq, opTestbit, getLsbD_take ha]
  · rw [opSelect, if_pos rfl, hla]
  · rw [opSelect, if_neg nofun, hlb]

/-! ## Boolean operations (R114 to R116) -/

theorem exec_band (a b : Bool) (s : State) :
    exec (.band a b) s = .next { s with y := if a ∧ b then 1#64 else 0#64 } := by
  cases a <;> cases b <;> rfl

theorem exec_bor (a b : Bool) (s : State) :
    exec (.bor a b) s = .next { s with y := if a ∨ b then 1#64 else 0#64 } := by
  cases a <;> cases b <;> rfl

theorem exec_bnot (a : Bool) (s : State) :
    exec (.bnot a) s = .next { s with y := if a then 0#64 else 1#64 } := by
  cases a <;> rfl

/-- Settles O38: `BOP` alone selects the row, and each row has its truth table. -/
theorem booleanRequestsAnswerTheirTruthTables : Obligations.BooleanRequestsAnswerTheirTruthTables := by
  intro s ws o rest
  refine ⟨fun hp => ?_, fun hp => ?_, fun hp => ?_, fun a b => ⟨exec_band a b s, exec_bor a b s, exec_bnot a s⟩⟩
  · have hd : decodeRequest (breqWord 0x0D#5 ws) o = .ok (.band (bitOf o.a) (bitOf o.b)) := by simp [decodeRequest]
    exact (step_of_instr hp hd).trans (exec_band _ _ _)
  · have hd : decodeRequest (breqWord 0x0E#5 ws) o = .ok (.bor (bitOf o.a) (bitOf o.b)) := by simp [decodeRequest]
    exact (step_of_instr hp hd).trans (exec_bor _ _ _)
  · have hd : decodeRequest (breqWord 0x0F#5 ws) o = .ok (.bnot (bitOf o.a)) := by simp [decodeRequest]
    exact (step_of_instr hp hd).trans (exec_bnot _ _)

/-! ## `LOOKUP` (R117) -/

/-- Settles O39: the request's result is the table's entry at the instance's width, and none elsewhere. -/
theorem lookupAnswersInsideItsTable : Obligations.LookupAnswersInsideItsTable := by
  intro s ws tsel n len hlen
  rw [← rom_length] at hlen
  subst hlen
  refine ⟨fun hw hn => ?_, fun hf hbad => answer_recordsFault hf ?_⟩
  · have hy : (s.variant.rom tsel)[n.toNat]? = some (s.variant.rom tsel)[n.toNat] := List.getElem?_eq_getElem hn
    exact ⟨_, answer_some ws _ s _ _ hw ((if_pos rfl).trans hy), hy⟩
  · refine Option.bind_eq_none_iff.2 fun w hw => ?_
    obtain hne | hge := hbad
    · exact if_neg fun h => hne (hw.trans (congrArg some h))
    · rw [List.getElem?_eq_none hge, ite_self]

/-! ## Purity (R100) -/

theorem admits_iff {a : Word} : ws.admits a = true ↔ ∃ w, ws.width? = some w ∧ a.toNat < 2 ^ w := by
  cases h : ws.width? <;> simp [WSel.admits, Word.fits, h]

theorem admitsAmount_iff {n : BitVec 7} : ws.admitsAmount n = true ↔ ∃ w, ws.width? = some w ∧ n.toNat < w := by
  cases h : ws.width? <;> simp [WSel.admitsAmount, h]

/-- Settles O41: a well-formed request has a width and a result at it, in which the state has no part. -/
theorem validRequestsArePureFunctions : Obligations.ValidRequestsArePureFunctions := by
  intro i hwf hi hl
  cases i with
  | msgIn | msgClear | hash | digestRd | statusRd | padNeeded | padLen | padByte => cases hi
  | and ws | or ws | xor ws | add ws | mul ws | select ws =>
    obtain ⟨w, hw, -⟩ := admits_iff.1 (Bool.and_eq_true_iff.1 hwf).1
    exact ⟨_, fun s => answer_some ws _ s w _ hw rfl⟩
  | not ws =>
    obtain ⟨w, hw, -⟩ := admits_iff.1 hwf
    exact ⟨_, fun s => answer_some ws _ s w _ hw rfl⟩
  | const ws =>
    obtain ⟨w, hw, hlit⟩ := admits_iff.1 hwf
    exact ⟨_, fun s => answer_some ws _ s w _ hw (if_pos hlit)⟩
  | shl ws | shr ws | rotl ws | rotr ws | testbit ws =>
    obtain ⟨w, hw, hn⟩ := admitsAmount_iff.1 (Bool.and_eq_true_iff.1 hwf).2
    exact ⟨_, fun s => answer_withAmount _ s hw hn⟩
  | band a b => exact ⟨_, exec_band a b⟩
  | bor a b => exact ⟨_, exec_bor a b⟩
  | bnot a => exact ⟨_, exec_bnot a⟩
  | lookup ws tsel n => exact absurd rfl (hl ws tsel n)

end Sys2Proof.Machine
end

section
/-! SUPPORT. The statements of 42_round_functions.md: `Ch` and `Maj` bit by bit, their identities from their bits
(R143); then the requests a sigma makes and the XOR of their answers (R134 to R141). -/

namespace Sys2Proof.Machine

variable {w : Nat}

/-! ## `Ch`, `Parity` and `Maj` (R130 to R132) -/

theorem getLsbD_ch (x y z : BitVec w) {k : Nat} (hk : k < w) :
    (ch x y z).getLsbD k = if x.getLsbD k then y.getLsbD k else z.getLsbD k := by
  rw [ch, opXor, opAnd, opAnd, opNot, BitVec.allOnes_xor, BitVec.getLsbD_xor, BitVec.getLsbD_and, BitVec.getLsbD_and,
    BitVec.getLsbD_not, decide_eq_true hk]
  cases x.getLsbD k <;> simp

theorem getLsbD_maj (x y z : BitVec w) (k : Nat) : (maj x y z).getLsbD k =
    decide (2 ≤ (x.getLsbD k).toNat + (y.getLsbD k).toNat + (z.getLsbD k).toNat) := by
  have majority : ∀ a b c : Bool,
      ((a && b) ^^ (a && c) ^^ (b && c)) = decide (2 ≤ a.toNat + b.toNat + c.toNat) := by decide
  rw [maj, opXor, opXor, opAnd, opAnd, opAnd, BitVec.getLsbD_xor, BitVec.getLsbD_xor, BitVec.getLsbD_and,
    BitVec.getLsbD_and, BitVec.getLsbD_and, majority]

/-- Both branches of the choice are the same. -/
theorem ch_same (x y : BitVec w) : ch x y y = y :=
  BitVec.eq_of_getLsbD_eq fun _ hk => (getLsbD_ch x y y hk).trans (ite_self _)

/-- Two equal bits are the majority. -/
theorem maj_same (x z : BitVec w) : maj x x z = x := by
  refine BitVec.eq_of_getLsbD_eq fun k _ => ?_
  rw [getLsbD_maj]
  cases x.getLsbD k <;> cases z.getLsbD k <;> rfl

/-- The count of the bits does not depend on their order. -/
theorem maj_swap_left (x y z : BitVec w) : maj x y z = maj y x z :=
  BitVec.eq_of_getLsbD_eq fun k _ => by rw [getLsbD_maj, getLsbD_maj, Nat.add_comm (x.getLsbD k).toNat]

theorem maj_swap_right (x y z : BitVec w) : maj x y z = maj x z y :=
  BitVec.eq_of_getLsbD_eq fun k _ => by rw [getLsbD_maj, getLsbD_maj, Nat.add_right_comm]

theorem parity_assoc (x y z : BitVec w) : parity x y z = x ^^^ (y ^^^ z) := BitVec.xor_assoc x y z

theorem parity_same (x z : BitVec w) : parity x x z = z := by
  rw [parity, opXor, opXor, BitVec.xor_self, BitVec.zero_xor]

/-- Settles O42: the bits of `Ch` and `Maj`, and the identities of R143. -/
theorem roundFunctionsObeyTheirIdentities : Obligations.RoundFunctionsObeyTheirIdentities :=
  fun _ x y z => ⟨fun _ => getLsbD_ch x y z, fun k _ => getLsbD_maj x y z k, ch_same x y, maj_same x z,
    maj_swap_left x y z, maj_swap_right x y z, parity_assoc x y z, parity_same x z⟩

/-! ## The sigmas (R134 to R141) -/

theorem lane_opXor (a b : BitVec w) : lane (opXor a b) = lane a ^^^ lane b := BitVec.setWidth_xor

section
variable {ws : WSel} {p q r : BitVec 7}

/-- `ROTR` of a word of the width (R110). -/
theorem exec_rotr_lane (hw : ws.width? = some w) (x : BitVec w) {n : BitVec 7} (hn : n.toNat < w) (s : State) :
    exec (.rotr ws (lane x) n) s = .next { s with y := lane (opRotr x n.toNat) } := by
  rw [exec, execRotr, answer_withAmount _ s hw hn, take_lane x (width_le hw)]

/-- `SHR` of a word of the width (R108). -/
theorem exec_shr_lane (hw : ws.width? = some w) (x : BitVec w) {n : BitVec 7} (hn : n.toNat < w) (s : State) :
    exec (.shr ws (lane x) n) s = .next { s with y := lane (opShr x n.toNat) } := by
  rw [exec, execShr, answer_withAmount _ s hw hn, take_lane x (width_le hw)]

/-- Three right rotates by amounts below the width (R119) are answered, and the sigma is the XOR of the answers. -/
theorem rotrXor3_requests (hw : ws.width? = some w) (hp : p.toNat < w) (hq : q.toNat < w) (hr : r.toNat < w)
    (x : BitVec w) (s : State) :
    ∃ y1 y2 y3, exec (.rotr ws (lane x) p) s = .next { s with y := y1 } ∧
      exec (.rotr ws (lane x) q) s = .next { s with y := y2 } ∧
      exec (.rotr ws (lane x) r) s = .next { s with y := y3 } ∧
      lane (rotrXor3 p.toNat q.toNat r.toNat x) = y1 ^^^ y2 ^^^ y3 :=
  ⟨_, _, _, exec_rotr_lane hw x hp s, exec_rotr_lane hw x hq s, exec_rotr_lane hw x hr s,
    by rw [rotrXor3, lane_opXor, lane_opXor]⟩

/-- The same for two right rotates and a right shift. -/
theorem rotrXor2Shr_requests (hw : ws.width? = some w) (hp : p.toNat < w) (hq : q.toNat < w) (hr : r.toNat < w)
    (x : BitVec w) (s : State) :
    ∃ y1 y2 y3, exec (.rotr ws (lane x) p) s = .next { s with y := y1 } ∧
      exec (.rotr ws (lane x) q) s = .next { s with y := y2 } ∧
      exec (.shr ws (lane x) r) s = .next { s with y := y3 } ∧
      lane (rotrXor2Shr p.toNat q.toNat r.toNat x) = y1 ^^^ y2 ^^^ y3 :=
  ⟨_, _, _, exec_rotr_lane hw x hp s, exec_rotr_lane hw x hq s, exec_shr_lane hw x hr s,
    by rw [rotrXor2Shr, lane_opXor, lane_opXor]⟩

end

/-- Settles O43: each sigma is one of the two shapes, with amounts below its width. A 64-bit word and its lane are the
same by computation. -/
theorem sigmasAreThreeBackendRequests : Obligations.SigmasAreThreeBackendRequests := by
  refine ⟨fun s x p q r f h => ?bigSigma_256, fun s x p q r f h => ?smallSigma_256,
    fun s x p q r f h => ?bigSigma_512, fun s x p q r f h => ?smallSigma_512⟩
  case bigSigma_256 | bigSigma_512 =>
    obtain ⟨rfl, rfl, rfl, rfl⟩ | ⟨rfl, rfl, rfl, rfl⟩ := h <;>
      exact rotrXor3_requests rfl (by decide) (by decide) (by decide) x s
  case smallSigma_256 | smallSigma_512 =>
    obtain ⟨rfl, rfl, rfl, rfl⟩ | ⟨rfl, rfl, rfl, rfl⟩ := h <;>
      exact rotrXor2Shr_requests rfl (by decide) (by decide) (by decide) x s

end Sys2Proof.Machine
end

section
/-! SUPPORT. The statements of 43_padding.md: what each command answers (R163, R164, R166), the length of the suffix
(R162, R167), and the bits of its bytes (R161). -/

namespace Sys2Proof.Machine

variable {v : Variant} {s : State}

/-! ## The suffix length (R162) -/

/-- A block is sixteen words (R4). -/
theorem bb_eq (v : Variant) : v.bb = 16 * v.w := by cases v <;> rfl

/-- The length field is two words (R4). -/
theorem lf_eq (v : Variant) : v.lf = 2 * v.w := by cases v <;> rfl

/-- The suffix holds its first byte and the eight bytes of the length at least. -/
theorem nine_le_padLength (v : Variant) (l : Nat) : 9 ≤ padLength v l := by
  rw [padLength, lf_eq]
  rcases word_width_cases v with hw | hw <;> omega

/-- The fill brings a length of whole bytes, with its first byte, up to the length field (R161, R162). -/
theorem padZeros_aligns (v : Variant) {l : Nat} (h : l % 8 = 0) :
    (l + 8 + 8 * padZeros v l) % v.bb = v.bb - 2 * v.w := by
  rw [padZeros, bb_eq, lf_eq]
  rcases word_width_cases v with hw | hw <;> rw [hw] <;> omega

theorem padZeros_lt (v : Variant) (l : Nat) : padZeros v l < v.bb / 8 := Nat.mod_lt _ (by cases v <;> decide)

/-- Settles O30: the length field fills the block that the fill bytes leave. -/
theorem paddedMessageIsWholeBlocks : Obligations.PaddedMessageIsWholeBlocks := by
  intro v l h
  have haligned := padZeros_aligns v h
  have hfill := padZeros_lt v l
  rw [bb_eq] at haligned hfill ⊢
  rw [padLength, lf_eq]
  rcases word_width_cases v with hw | hw <;> rw [hw] at haligned hfill ⊢ <;> omega

/-! ## The suffix bytes (R162) -/

theorem padByteAt_zero (v : Variant) (l : Nat) : padByteAt v l 0 = 0x80#8 := rfl

theorem padByteAt_fill {l i : Nat} (h0 : 0 < i) (hi : i < padLength v l - 8) : padByteAt v l i = 0#8 := by
  rw [padByteAt, if_neg (by omega), if_pos hi]

/-- The last eight bytes are those of the length. -/
theorem padByteAt_length {l i : Nat} (hi : padLength v l - 8 ≤ i) :
    padByteAt v l i = BitVec.ofNat 8 (l >>> (8 * (padLength v l - 1 - i))) := by
  have := nine_le_padLength v l
  rw [padByteAt, if_neg (by omega), if_neg (by omega)]

/-- A byte of a number is its digit to the base 256. -/
theorem toNat_byte_shiftRight (x k : Nat) : (BitVec.ofNat 8 (x >>> (8 * k))).toNat = x / 256 ^ k % 256 := by
  rw [BitVec.toNat_ofNat, Nat.shiftRight_eq_div_pow, Nat.pow_mul]

/-- The suffix is 0x80, the fill, and the eight bytes of the length. -/
theorem padBytes_eq (v : Variant) (l : Nat) :
    padBytes v l = 0x80#8 :: (List.replicate (padLength v l - 9) 0#8 ++ beBytes 8 l) := by
  obtain ⟨n, hn⟩ : ∃ n, padLength v l = 1 + n + 8 := ⟨padLength v l - 9, by have := nine_le_padLength v l; omega⟩
  have hfill : (List.range n).map (fun i => padByteAt v l (1 + i)) = List.replicate n 0#8 := by
    rw [List.eq_replicate_iff]
    refine ⟨by simp, List.forall_mem_map.2 fun i hi => padByteAt_fill (by omega) ?_⟩
    have := List.mem_range.1 hi
    omega
  have hlen : (List.range 8).map (fun i => padByteAt v l (1 + n + i)) = beBytes 8 l := by
    refine List.map_congr_left fun i hi => ?_
    rw [padByteAt_length (by omega), hn, show 1 + n + 8 - 1 - (1 + n + i) = 8 - 1 - i by omega]
  rw [padBytes, hn, List.range_add, List.range_add, List.map_append, List.map_append, List.map_map, List.map_map,
    ← hlen, show 1 + n + 8 - 9 = n by omega, ← hfill]
  rfl

/-! ## The bits of bytes (R161) -/

theorem bitsOfBytes_cons (b : Byte) (bs : List Byte) : bitsOfBytes (b :: bs) = bitsBE 8 b.toNat ++ bitsOfBytes bs := rfl

theorem bitsOfBytes_append (bs cs : List Byte) : bitsOfBytes (bs ++ cs) = bitsOfBytes bs ++ bitsOfBytes cs :=
  List.flatMap_append

theorem bitsOfBytes_replicate_zero (n : Nat) :
    bitsOfBytes (List.replicate n 0#8) = List.replicate (8 * n) false := by
  induction n with
  | zero => rfl
  | succ n ih =>
    rw [List.replicate_succ, bitsOfBytes_cons, ih, Nat.mul_succ, Nat.add_comm, List.replicate_add]
    rfl

/-- The high bits, then the low bits. -/
theorem bitsBE_add (m n x : Nat) : bitsBE (m + n) x = bitsBE m (x >>> n) ++ bitsBE n x := by
  rw [bitsBE, List.range_add, List.map_append, List.map_map]
  refine congrArg₂ _ (List.map_congr_left fun i hi => ?_) (List.map_congr_left fun i _ => ?_)
  · have := List.mem_range.1 hi
    rw [Nat.testBit_shiftRight, show m + n - 1 - i = n + (m - 1 - i) by omega]
  · exact congrArg x.testBit (show m + n - 1 - (m + i) = n - 1 - i by omega)

/-- A byte holds the low eight bits of its number. -/
theorem bitsBE_toNat_ofNat (x : Nat) : bitsBE 8 (BitVec.ofNat 8 x).toNat = bitsBE 8 x := by
  refine List.map_congr_left fun i _ => ?_
  rw [BitVec.toNat_ofNat, Nat.testBit_mod_two_pow, decide_eq_true (by omega), Bool.true_and]

/-- One byte more at the high end. -/
theorem beBytes_succ_high (n x : Nat) : beBytes (n + 1) x = BitVec.ofNat 8 (x >>> (8 * n)) :: beBytes n x := by
  rw [beBytes, List.range_succ_eq_map, List.map_cons, List.map_map]
  refine congrArg _ (List.map_congr_left fun i _ => ?_)
  exact congrArg (fun k => BitVec.ofNat 8 (x >>> (8 * k))) (show n + 1 - 1 - (i + 1) = n - 1 - i by omega)

/-- The low bytes of a number are, bit for bit, its low bits. -/
theorem bitsOfBytes_beBytes (n x : Nat) : bitsOfBytes (beBytes n x) = bitsBE (8 * n) x := by
  induction n with
  | zero => rfl
  | succ n ih =>
    rw [beBytes_succ_high, bitsOfBytes_cons, bitsBE_toNat_ofNat, ih, ← bitsBE_add, Nat.mul_succ, Nat.add_comm]

/-! ## The bit-level suffix (R161) -/

/-- The length field is 64 bits of the length, after 0s up to its width. -/
theorem lengthField_eq (v : Variant) (l : Nat) :
    lengthField v l = List.replicate (v.lf - 64) false ++ bitsBE 64 l := by
  cases v <;> rfl

/-- A number of 0s below the block size that aligns is the least that does (R161). -/
theorem aligning_is_least {a b c k j : Nat} (hk : (a + k) % b = c) (hb : k < b) (hj : j < k) : (a + j) % b ≠ c := by
  intro h
  have hmod : a + j ≡ a + k [MOD b] := h.trans hk.symm
  exact hj.ne (Nat.ModEq.add_left_cancel' a hmod |>.eq_of_lt_of_lt (hj.trans hb) hb)

/-- The fill of whole bytes, with the seven 0s of the first byte, is the fill of the bit-level definition. -/
theorem bitsOfBytes_padBytes (v : Variant) (l : Nat) :
    bitsOfBytes (padBytes v l) = true :: (List.replicate (7 + 8 * padZeros v l) false ++ lengthField v l) := by
  have hfill : 7 + 8 * (padLength v l - 9) = 7 + 8 * padZeros v l + (v.lf - 64) := by
    rw [padLength, lf_eq]
    rcases word_width_cases v with hw | hw <;> rw [hw] <;> omega
  have hfirst : bitsBE 8 (0x80#8).toNat = true :: List.replicate 7 false := rfl
  rw [padBytes_eq, bitsOfBytes_cons, bitsOfBytes_append, bitsOfBytes_replicate_zero, bitsOfBytes_beBytes, hfirst,
    List.cons_append, ← List.append_assoc, ← List.replicate_add, hfill, List.replicate_add, List.append_assoc,
    ← lengthField_eq]

/-- Settles O31: the fill aligns, and it is shorter than a block. -/
theorem suffixBytesAreTheBitLevelSuffix : Obligations.SuffixBytesAreTheBitLevelSuffix := by
  intro v l h _
  have hfill := padZeros_lt v l
  have haligned : (l + 1 + (7 + 8 * padZeros v l)) % v.bb = v.bb - 2 * v.w := by
    rw [← padZeros_aligns v h]
    exact congrArg (· % v.bb) (by omega)
  exact ⟨_, haligned, fun j hj => aligning_is_least haligned (by omega) hj, bitsOfBytes_padBytes v l⟩

/-! ## The commands -/

theorem exec_padNeeded (hf : s.fault = false) (l : Word) :
    exec (.padNeeded l) s = .next (responds s (boolLane (padIsNeeded s.variant l.toNat))) := by
  rw [exec, execPadNeeded, unlessFaulted_of_noFault _ _ hf]
  rfl

theorem exec_padLen (hf : s.fault = false) (l : Word) : exec (.padLen l) s = .next
    (if l.toNat % 8 ≠ 0 then recordsFault s 8#4 else responds s (BitVec.ofNat 64 (padLength s.variant l.toNat))) := by
  rw [exec, execPadLen, unlessFaulted_of_noFault _ _ hf, raiseFault_of_noFault _ _ hf]
  rfl

theorem exec_padByte (hf : s.fault = false) (i : BitVec 8) (l : Word) : exec (.padByte i l) s = .next
    (if l.toNat % 8 ≠ 0 then recordsFault s 8#4
      else if padLength s.variant l.toNat ≤ i.toNat then recordsFault s 9#4
      else responds s (lane (padByteAt s.variant l.toNat i.toNat))) := by
  rw [exec, execPadByte, unlessFaulted_of_noFault _ _ hf, raiseFault_of_noFault _ _ hf, raiseFault_of_noFault _ _ hf]
  rfl

/-- R166, with the block size told by the width (R4). -/
theorem padIsNeeded_iff (v : Variant) (l : Word) :
    padIsNeeded v l.toNat = true ↔ l = 0#64 ∨ l.toNat % (if v.w = 64 then 1024 else 512) ≠ 0 := by
  have hbb : v.bb = if v.w = 64 then 1024 else 512 := by cases v <;> rfl
  rw [padIsNeeded, Bool.or_eq_true, decide_eq_true_eq, decide_eq_true_eq, hbb, BitVec.toNat_eq]
  rfl

/-- Settles O27: the answer is `isPaddingNeeded(L)` on a lane. -/
theorem padNeededAnswersForEveryLength : Obligations.PadNeededAnswersForEveryLength := by
  intro s l hf
  rw [exec_padNeeded hf, boolLane_eq]
  simp only [padIsNeeded_iff]

/-- `n(L)` with the difference of R162 taken as an integer. -/
theorem padLength_eq_int {bytes lfb : Int}
    (h : (v.w = 32 ∧ bytes = 64 ∧ lfb = 8) ∨ (v.w = 64 ∧ bytes = 128 ∧ lfb = 16)) (l : Nat) :
    (padLength v l : Int) = 1 + (bytes - lfb - 1 - ((l / 8 : Nat) : Int) % bytes) % bytes + lfb := by
  rw [padLength, padZeros, bb_eq, lf_eq]
  rcases h with ⟨hw, rfl, rfl⟩ | ⟨hw, rfl, rfl⟩ <;> rw [hw] <;> omega

/-- Settles O28: the check of R163, then `n(L)`. -/
theorem padLenRespondsWithTheSuffixLength : Obligations.PadLenRespondsWithTheSuffixLength := by
  intro s l bytes lfb hf hfamily
  rw [exec_padLen hf]
  exact ⟨fun h => by rw [if_pos h],
    fun h => ⟨_, by rw [if_neg (not_not.2 h)], padLength_eq_int hfamily l.toNat⟩⟩

/-- Settles O29: the two checks in their order (R281), then the byte by its place in the suffix. -/
theorem padByteRespondsWithTheSuffixByte : Obligations.PadByteRespondsWithTheSuffixByte := by
  intro s i l hf
  rw [exec_padByte hf]
  refine ⟨fun h => by rw [if_pos h], fun h hi => by rw [if_neg (not_not.2 h), if_pos hi], fun h hi =>
    ⟨padByteAt s.variant l.toNat i.toNat, by rw [if_neg (not_not.2 h), if_neg hi.not_ge, lane], fun h0 => ?first,
      padByteAt_fill, fun hlast => ?length⟩⟩
  case first => rw [h0, padByteAt_zero]
  case length => rw [padByteAt_length hlast, toNat_byte_shiftRight]

end Sys2Proof.Machine
end

section
/-! SUPPORT. The statements of 44_hash_engine.md: status after reset, the buffer commands, `HASH` and its chaining, and
digest reads. -/

namespace Sys2Proof.Machine

variable {s t : State}

/-! ## Status after reset (R191) -/

/-- Right after reset every field but the two that show the variant is 0; an instance has room for a word, so that
`FULL` is 0 too. -/
theorem statusWord_resetOf (v : Variant) {cap : Nat} (hcap : cap ≠ 0) :
    statusWord (State.resetOf v cap) =
      (BitVec.ofBool v.wide).setWidth 64 <<< 15 ||| v.ident.setWidth 64 <<< 12 := by
  have hfull : isFull (State.resetOf v cap) = false := decide_eq_false hcap.symm
  rw [statusWord, hfull]
  change 0#32 ++ 0#16 ++ BitVec.ofBool v.wide ++ v.ident ++ 0#4 ++ 0#4 ++ 0#1 ++ 0#1 ++ 0#1 ++ 0#1 = _
  cases v <;> decide

theorem exec_statusRd (s : State) : exec .statusRd s = .next (responds s (statusWord s)) := rfl

/-- Settles O11: `STATUS_RD` answers `statusWord`, which `statusWord_resetOf` gives. -/
theorem statusAfterResetShowsTheVariant : Obligations.StatusAfterResetShowsTheVariant := by
  intro cap v d hcap hmem
  have hcap : cap ≠ 0 := by
    rintro rfl
    cases hcap
  rw [exec_statusRd, statusWord_resetOf v hcap]
  simp only [List.mem_cons, Prod.mk.injEq, List.not_mem_nil, or_false] at hmem
  rcases hmem with ⟨rfl, rfl⟩ | ⟨rfl, rfl⟩ | ⟨rfl, rfl⟩ | ⟨rfl, rfl⟩ | ⟨rfl, rfl⟩ | ⟨rfl, rfl⟩ | ⟨rfl, rfl⟩
  all_goals rfl

/-! ## Buffering (R180 to R182) -/

/-- A lane holds a word of the instance's width when it is below `2^32` on a 32-bit instance; on a 64-bit one every
lane does. -/
theorem fits_width_iff (v : Variant) (x : Word) :
    Word.fits v.w x = true ↔ (v.w = 32 → x.toNat < 2 ^ 32) := by
  have hx := x.isLt
  rw [Word.fits, decide_eq_true_eq]
  rcases word_width_cases v with hw | hw <;> rw [hw] <;> omega

/-- `MSG_IN` on an engine with no fault: the two checks in their order (R283), then the append. -/
theorem exec_msgIn_of_noFault (hf : s.fault = false) (x : Word) : exec (.msgIn x) s = .next
    (if Word.fits s.variant.w x = false then recordsFault s 6#4
      else if s.count = s.bufCap then recordsFault s 7#4
      else respond true 0#64 (bufAppend x s)) := by
  have htyped : wordTyped s.variant x = Word.fits s.variant.w x := Bool.eq_iff_iff.2 (wordTyped_iff_fits _ _)
  rw [exec, execMsgIn, unlessFaulted_of_noFault _ _ hf, htyped, raiseFault_of_noFault _ _ hf,
    raiseFault_of_noFault _ _ hf]
  cases hx : Word.fits s.variant.w x
  · rfl
  · rw [lane_take_of_fits x hx]
    rfl

/-- Settles O13: the three branches of `exec_msgIn_of_noFault`, and what the buffer reads after an append. -/
theorem msgInFollowsItsRule : Obligations.MsgInFollowsItsRule := by
  intro s v hf
  rw [exec_msgIn_of_noFault hf, ← fits_width_iff]
  refine ⟨fun hw hv => ?range, fun hv hc => ?full, fun hv hc => ⟨_, ?append, rfl, count_bufAppend v s,
    bufRead_bufAppend_new v s, bufRead_bufAppend_old v s⟩⟩
  case range =>
    have hwide : Word.fits s.variant.w v = false := by
      rw [← Bool.not_eq_true, fits_width_iff]
      exact fun h => (h hw).not_ge hv
    rw [if_pos hwide]
  case full => rw [if_neg (by simp [hv]), if_pos hc]
  case append =>
    rw [if_neg (by simp [hv]), if_neg hc]
    rfl

/-- `MSG_IN` reads no response, so a run that begins with one does not depend on the response before it. -/
theorem runAll_msgIn_respond (x : Word) (is : List Instr) (ok : Bool) (d : Word) (s : State) :
    runAll (.msgIn x :: is) (respond ok d s) = runAll (.msgIn x :: is) s := rfl

/-- Settles O14: `runAll_msgInSeq`, whose start differs in the response alone. -/
theorem msgInSequenceAppendsInOrder : Obligations.MsgInSequenceAppendsInOrder := by
  intro words s hf hne hw hc
  have hrun := runAll_msgInSeq words s hf (fun x hx => (fits_width_iff _ x).2 (hw x hx)) hc
  cases words with
  | nil => exact absurd rfl hne
  | cons x xs => exact (runAll_msgIn_respond x (msgInSeq xs) true 0#64 s).symm.trans hrun

/-- Settles O15: `exec_msgClear`, for the state and for the one it leaves. -/
theorem msgClearEmptiesTheBuffer : Obligations.MsgClearEmptiesTheBuffer := fun s hf =>
  ⟨_, exec_msgClear hf, rfl, rfl, bufRead_bufClear s, exec_msgClear (s := respond true 0#64 (bufClear s)) hf⟩

/-! ## `HASH` (R183, R186, R187) -/

/-- Settles O16: `HASH` completes with `hashBuffer`, by slots below and past `NH`. -/
theorem hashCompletesWithTheDigestOfTheBuffer : Obligations.HashCompletesWithTheDigestOfTheBuffer := by
  intro s hf hpos h16
  refine ⟨_, exec_hash hf hpos.ne' h16, ?_⟩
  have hlow : ∀ i, i < s.variant.nh → slot (hashBuffer s).h i = slot (hashWords s.variant s.buf) i :=
    fun i => slot_hashBuffer_lt s
  have hhigh : ∀ i, i < 8 → s.variant.nh ≤ i → slot (hashBuffer s).h i = slot s.h i := slot_hashBuffer_ge s
  simpa [bufRead] using ⟨hlow, hhigh⟩

/-- A second `HASH` writes the hash words that stand there: those below `NH` are a function of the variant and the
buffer (R187), and the others are not written. -/
theorem hashBuffer_h_again (ok : Bool) (d : Word) (s : State) :
    (hashBuffer (respond ok d (hashBuffer s))).h = (hashBuffer s).h := by
  refine words8_ext _ _ fun j hj => ?_
  by_cases hn : j < s.variant.nh
  · rw [slot_hashBuffer_lt s hn, slot_hashBuffer_lt _ (by simpa using hn)]
    simp
  · exact slot_hashBuffer_ge _ j hj (by simpa using hn)

/-- A `HASH` that responds with success passed its checks (R183). -/
theorem hash_completed (h : exec .hash s = .next t) (hok : t.rspOk = true) :
    s.fault = false ∧ s.count ≠ 0 ∧ s.count % 16 = 0 ∧ t = respond true 0#64 (hashBuffer s) := by
  cases exec_inv h with
  | hashed hf h0 h16 => exact ⟨hf, h0, h16, rfl⟩
  | refused | faulted => cases hok
  | read _ hr => cases hr
  | answered _ hr | violated hr => cases hr

/-- Settles O23: the buffer passes the checks again, and `hashBuffer_h_again`. -/
theorem secondHashGivesTheSameDigest : Obligations.SecondHashGivesTheSameDigest := by
  intro s t u hst hok htu
  obtain ⟨hf, h0, h16, rfl⟩ := hash_completed hst hok
  have hcount : (respond true 0#64 (hashBuffer s)).count = s.count := by simp [State.count]
  rw [exec_hash (by simpa using hf) (hcount ▸ h0) (hcount ▸ h16)] at htu
  cases htu
  exact ⟨hashBuffer_h_again true 0#64 s, by simp, by simp, rfl⟩

/-! ## The hash words block by block (R185, R220) -/

section
variable {w : Nat}

theorem unlanes_lanes (hw : w ≤ 64) (r : Words8 w) : unlanes w (lanes r) = r :=
  words8_ext _ _ fun j hj => by rw [slot_unlanes _ j hj, slot_lanes r j hj, take_lane _ hw]

theorem hashRun_nil (alg : Algorithm w) (r : Regs w) : hashRun alg [] r = initHashValue alg r := by
  simp [hashRun, hashBlocks]

/-- The block after `n` whole blocks (R51). -/
theorem blockOf_append_block {n : Nat} {xs ys : List (BitVec w)} (hx : xs.length = 16 * n) (hy : ys.length = 16) :
    blockOf n (xs ++ ys) = ys := by
  rw [blockOf, List.drop_left' hx, List.take_of_length_le hy.le]

/-- The loop over one block more processes that block after the others (R185). -/
theorem hashRun_append_block (alg : Algorithm w) {xs ys : List (BitVec w)} (hx : xs.length % 16 = 0)
    (hy : ys.length = 16) (r : Regs w) : hashRun alg (xs ++ ys) r = processBlock alg ys (hashRun alg xs r) := by
  have hblocks : (xs ++ ys).length / 16 = xs.length / 16 + 1 := by rw [List.length_append]; omega
  rw [hashRun, hblocks, hashBlocks, blockOf_append_block (by omega) hy, hashBlocks_append _ _ _ _ _ (by omega), hashRun]

/-- Of the registers a block finds, the hash words alone have a part in those it leaves (R183). -/
theorem processBlock_freshRegs {alg : Algorithm w} (hl : alg.Local) (block : List (BitVec w)) (r : Regs w) :
    AgreeBelow alg.nh (processBlock alg block r).hs (processBlock alg block (freshRegs r.hs)).hs :=
  processBlock_agree hl block fun _ _ => rfl

end

/-- The algorithm's initial words are the variant's `IVT` (R36, R220). -/
theorem withAlgorithm_iv (v : Variant) : (withAlgorithm v fun _ alg => lanes alg.iv) = lanes (ivSlots v v.w) := by
  cases v <;> rfl

/-- Every initial hash word is a word of the variant's width (R221 to R227). -/
theorem ivt_fits (v : Variant) : ∀ x ∈ v.ivt, Word.fits v.w x = true :=
  List.all_eq_true.1 (by cases v <;> rfl)

theorem slot_lanes_ivSlots (v : Variant) {i : Nat} (hi : i < v.nh) :
    slot (lanes (ivSlots v v.w)) i = v.romEntry true i := by
  have hi8 : i < 8 := hi.trans_le (nh_le v)
  have hlen : i < v.ivt.length := (rom_length v true).symm ▸ hi
  have hentry : v.romEntry true i = v.ivt[i] := (List.getElem_eq_getD _).symm
  rw [slot_lanes _ i hi8, ivSlots, slot_slotsOf _ i hi8, hentry,
    lane_take_of_fits _ (ivt_fits v _ (List.getElem_mem hlen))]

/-- With no block, the hash words are the initial ones (R185). -/
theorem slot_hashWords_nil (v : Variant) {i : Nat} (hi : i < v.nh) : slot (hashWords v []) i = v.romEntry true i := by
  obtain ⟨alg, -, hn, hf⟩ := exists_algorithm v
  have hi8 : i < 8 := hi.trans_le (nh_le v)
  calc
    _ = lane (slot (overlay alg.nh alg.iv (slotsOf fun _ => 0#v.w)) i) := by 
      rw [hashWords, hf, slot_lanes _ i hi8, List.map_nil, hashRun_nil]
      rfl
    _ = slot (lanes alg.iv) i := by rw [slot_overlay_lt _ _ hi8 (hn ▸ hi), slot_lanes _ i hi8]
    _ = slot (lanes (ivSlots v v.w)) i := by rw [← withAlgorithm_iv, hf]
    _ = _ := slot_lanes_ivSlots v hi

/-- One block more is compressed from the hash words before it (R185). -/
theorem slot_hashWords_append (v : Variant) {i : Nat} (hi : i < v.nh) {words block : Memory}
    (hw : words.length % 16 = 0) (hb : block.length = 16) :
    slot (hashWords v (words ++ block)) i = slot (compress v (hashWords v words) block) i := by
  obtain ⟨alg, hl, hn, hf⟩ := exists_algorithm v
  have hi8 : i < 8 := hi.trans_le (nh_le v)
  have hchain := hashRun_append_block alg (xs := words.map (Word.take v.w)) (ys := block.map (Word.take v.w))
    (by simpa using hw) (by simpa using hb)
  rw [hashWords, compress, hashWords, hf, hf, hf, unlanes_lanes (word_width_le v), slot_lanes _ i hi8,
    slot_lanes _ i hi8, List.map_append, hchain, processBlock_freshRegs hl _ _ i (hn ▸ hi)]

/-- Settles O18: no block, and one block more. -/
theorem hashChainsBlockByBlock : Obligations.HashChainsBlockByBlock := fun v _ hi =>
  ⟨slot_hashWords_nil v hi, fun _ _ => slot_hashWords_append v hi⟩

/-! ## Digest reads (R189, R190, R192) -/

/-- `DIGEST_RD` on an engine with no fault: the two checks in their order (R283), then the digest view. -/
theorem exec_digestRd_of_noFault (hf : s.fault = false) (i : BitVec 8) : exec (.digestRd i) s = .next
    (if s.digestValid = false then recordsFault s 4#4
      else if s.variant.nd ≤ i.toNat then recordsFault s 5#4
      else responds s (digestView s.variant i.toNat (readH s i.toNat))) := by
  rw [exec, execDigestRd, unlessFaulted_of_noFault _ _ hf, raiseFault_of_noFault _ _ hf, raiseFault_of_noFault _ _ hf]
  rfl

/-- The masked word of R190: its high half is the hash word's, its low half 0. -/
theorem digestView_masked (x : Word) :
    (digestView .sha512t224 3 x).extractLsb' 32 32 = x.extractLsb' 32 32 ∧
      (digestView .sha512t224 3 x).extractLsb' 0 32 = 0#32 := by
  have hmask : digestView .sha512t224 3 x = x &&& 0xFFFFFFFF00000000#64 := rfl
  have hhigh : (0xFFFFFFFF00000000#64).extractLsb' 32 32 = BitVec.allOnes 32 := rfl
  have hlow : (0xFFFFFFFF00000000#64).extractLsb' 0 32 = 0#32 := rfl
  rw [hmask, BitVec.extractLsb'_and, BitVec.extractLsb'_and, hhigh, hlow]
  exact ⟨BitVec.and_allOnes, BitVec.and_zero⟩

/-- Every other word of the view is the hash word (R190). -/
theorem digestView_unmasked {v : Variant} {i : Nat} (h : ¬(v = .sha512t224 ∧ i = 3)) (x : Word) :
    digestView v i x = x := by
  cases v with
  | sha512t224 => exact if_neg fun hi => h ⟨rfl, hi⟩
  | sha1 | sha224 | sha256 | sha384 | sha512 | sha512t256 => rfl

/-- Settles O24: the three branches of `exec_digestRd_of_noFault`, and the view of a held word. -/
theorem digestReadFollowsItsRule : Obligations.DigestReadFollowsItsRule := by
  intro s i hf
  rw [exec_digestRd_of_noFault hf]
  refine ⟨fun hd => by rw [if_pos hd], fun hd hi => by rw [if_neg (by simp [hd]), if_pos hi], fun hd hheld hi =>
    ⟨_, by rw [if_neg (by simp [hd]), if_neg hi.not_ge], ?_, fun h => ?_⟩⟩ <;>
    rw [readH_of_held s _ (hi.trans_le hheld)]
  · rintro ⟨hv, rfl⟩
    rw [hv]
    exact digestView_masked _
  · exact digestView_unmasked (by rwa [← bitVec8_eq_iff i 3 (by decide)]) _

/-- What a digest read depends on, behind the gate of R284. -/
structure State.SameDigest (s t : State) : Prop where
  variant : s.variant = t.variant
  h : s.h = t.h
  hHeld : s.hHeld = t.hHeld
  digestValid : s.digestValid = t.digestValid

theorem State.SameDigest.trans {u : State} (h : s.SameDigest t) (h' : t.SameDigest u) : s.SameDigest u :=
  ⟨h.variant.trans h'.variant, h.h.trans h'.h, h.hHeld.trans h'.hHeld, h.digestValid.trans h'.digestValid⟩

/-- No instruction but `HASH` writes what a digest read depends on (R192). -/
theorem ExecOutcome.sameDigest {i : Instr} (h : ExecOutcome s i t) (hi : i ≠ .hash) : s.SameDigest t := by
  obtain ⟨hh, hheld, -, hvalid⟩ := h.hash_state hi
  exact ⟨h.variant.symm, hh.symm, hheld.symm, hvalid.symm⟩

/-- A run without `HASH` that ends with no fault had none at its start (R27), and keeps the digest (R192, R306). -/
theorem runAll_keeps_digest {is : List Instr} {rs : List Response} (hn : ∀ i ∈ is, i ≠ .hash)
    (h : runAll is s = some (rs, t)) (hf : t.fault = false) : s.fault = false ∧ s.SameDigest t := by
  induction is generalizing s rs with
  | nil =>
    cases h
    exact ⟨hf, rfl, rfl, rfl, rfl⟩
  | cons i is ih =>
    obtain ⟨u, hu, ho⟩ := exec_outcome i s
    obtain ⟨hi, his⟩ := List.forall_mem_cons.1 hn
    rw [runAll_cons hu] at h
    obtain ⟨⟨qs, t'⟩, hq, e⟩ := Option.map_eq_some_iff.1 h
    cases e
    obtain ⟨hfu, hut⟩ := ih his hq
    refine ⟨?_, (ho.sameDigest hi).trans hut⟩
    by_contra hfs
    obtain ⟨hfault, -⟩ := ho.keepsFaulted (by simpa using hfs)
    simp [hfu] at hfault

/-- Two engines with no fault and the same digest give every digest read the same response. -/
theorem digestRd_sameDigest (h : s.SameDigest t) (hs : s.fault = false) (ht : t.fault = false) (k : BitVec 8) :
    ∃ s' t', exec (.digestRd k) s = .next s' ∧ exec (.digestRd k) t = .next t' ∧
      s'.rspOk = t'.rspOk ∧ s'.rspData = t'.rspData := by
  have hread : readH s k.toNat = readH t k.toNat := by rw [readH, readH, h.hHeld, h.h]
  refine ⟨_, _, exec_digestRd_of_noFault hs k, exec_digestRd_of_noFault ht k, ?_⟩
  rw [h.digestValid, h.variant, hread]
  split
  · exact ⟨rfl, rfl⟩
  · split <;> exact ⟨rfl, rfl⟩

/-- Settles O25: the run keeps what a digest read depends on. -/
theorem digestStaysReadableUntilTheNextHash : Obligations.DigestStaysReadableUntilTheNextHash := by
  intro is s t rs hn hrun hf
  obtain ⟨hs, hsame⟩ := runAll_keeps_digest hn hrun hf
  exact digestRd_sameDigest hsame hs hf

end Sys2Proof.Machine
end

section
/-! SUPPORT. The statements of 45_variants.md: the schedule and the rounds of one block as recurrences, for SHA-1 and
for the two SHA-2 families, and the compression that a truncating variant shares with the full one. -/

namespace Sys2Proof.Machine

variable {w : Nat}

/-! ## The word operators of R231 and R235 -/

theorem opRotl_eq_rotateLeft (x : BitVec w) {n : Nat} (hn : n < w) : opRotl x n = x.rotateLeft n := by
  rw [BitVec.rotateLeft_def, Nat.mod_eq_of_lt hn, opRotl]
  split
  · next h => rw [h, BitVec.shiftLeft_zero, Nat.sub_zero, BitVec.ushiftRight_eq_zero le_rfl, BitVec.or_zero]
  · rfl

theorem ch_eq (x y z : BitVec w) : ch x y z = (x &&& y) ^^^ (~~~x &&& z) := by
  rw [ch, opNot, BitVec.allOnes_xor, opXor, opAnd, opAnd]

/-- The round selector of R133, its bounds written as in `fipsF`. -/
theorem sha1F_eq_fipsF (t : Nat) (x y z : BitVec 32) : sha1F t x y z = fipsF t x y z := by
  simp only [sha1F, fipsF, ch_eq, Nat.lt_succ_iff]
  rfl

/-! ## One round (R235, R236) -/

theorem sha1Round_wv (t : Nat) (k x : BitVec 32) (r : Regs 32) : (sha1Round t k x r).wv = fipsRound1 t k x r.wv := by
  simp only [sha1Round, fipsRound1, sha1F_eq_fipsF, opRotl_eq_rotateLeft _ (show 5 < 32 by decide),
    opRotl_eq_rotateLeft _ (show 30 < 32 by decide), opAdd]

theorem sha2Round_wv (s0 s1 : BitVec w → BitVec w) (t : Nat) (k x : BitVec w) (r : Regs w) :
    (sha2Round s0 s1 t k x r).wv = fipsRound2 s0 s1 k x r.wv := by
  simp only [sha2Round, fipsRound2, ch_eq]
  rfl

/-! ## The schedule of a block (R231 to R233) -/

/-- `SCHED[t]` of a block. -/
def scheduleWord (alg : Algorithm w) (block : List (BitVec w)) (t : Nat) : BitVec w :=
  (prepMsgSchedule alg block).getD t 0#w

/-- What a round of a block starts from: the registers after the rounds before round `t` (R234 to R236). -/
def regsAtRound (alg : Algorithm w) (block : List (BitVec w)) (r : Regs w) (t : Nat) : Regs w :=
  workingLoop alg 0 ((prepMsgSchedule alg block).take t) (initWorking alg { r with sched := prepMsgSchedule alg block })

theorem extendSchedule_add (alg : Algorithm w) (m n : Nat) (rev : List (BitVec w)) :
    extendSchedule alg (m + n) rev = extendSchedule alg m (extendSchedule alg n rev) := by
  induction n generalizing rev with
  | zero => rfl
  | succ n ih => exact ih _

section
variable {alg : Algorithm w} {block : List (BitVec w)} {t : Nat}

/-- Later words leave the schedule's first `16 + n` as they are. -/
theorem scheduleWord_eq_getD (hb : block.length = 16) {n : Nat} (hn : n ≤ alg.rounds - 16) (ht : t < 16 + n) :
    scheduleWord alg block t = (extendSchedule alg n block.reverse).reverse.getD t 0#w := by
  obtain ⟨m, hm⟩ := Nat.exists_eq_add_of_le' hn
  obtain ⟨new, hnew⟩ := extendSchedule_suffix alg m (extendSchedule alg n block.reverse)
  rw [scheduleWord, prepMsgSchedule, hm, extendSchedule_add, hnew, List.reverse_append,
    List.getD_append _ _ _ _ (by simpa [extendSchedule_length, hb] using ht)]

/-- Entries 0 to 15 are the block's words. -/
theorem scheduleWord_lt_sixteen (hb : block.length = 16) (ht : t < 16) :
    scheduleWord alg block t = block.getD t 0#w := by
  rw [scheduleWord_eq_getD hb (Nat.zero_le _) ht, extendSchedule, List.reverse_reverse]

/-- A later entry is the recurrence's word from the entries before it. -/
theorem scheduleWord_eq_next (hb : block.length = 16) (h16 : 16 ≤ t) (ht : t < alg.rounds) :
    ∃ back, (∀ i, 0 < i → i ≤ t → back i = scheduleWord alg block (t - i)) ∧
      scheduleWord alg block t = alg.next back := by
  obtain ⟨n, rfl⟩ := Nat.exists_eq_add_of_le h16
  have hlen : (extendSchedule alg n block.reverse).length = 16 + n := by simp [extendSchedule_length, hb]
  refine ⟨fun i => (extendSchedule alg n block.reverse).getD (i - 1) 0#w, fun i h0 hi => ?_, ?_⟩
  · rw [scheduleWord_eq_getD hb (n := n) (by omega) (by omega), List.getD_eq_getElem?_getD,
      List.getElem?_reverse (by omega), hlen, show 16 + n - 1 - (16 + n - i) = i - 1 by omega]
    exact List.getD_eq_getElem?_getD
  · rw [scheduleWord_eq_getD hb (n := n + 1) (by omega) (by omega), extendSchedule_succ, List.reverse_cons,
      List.getD_append_right _ _ _ _ (by simp [hlen]), List.length_reverse, hlen, Nat.sub_self]
    rfl

/-! ## The rounds of a block (R234 to R237) -/

variable {r : Regs w} {i : Nat}

theorem slot_regsAtRound_zero (hl : alg.Local) (hi : i < alg.nh) :
    slot (regsAtRound alg block r 0).wv i = slot r.hs i :=
  slot_overlay_lt _ _ (hi.trans_le hl.nh_le) hi

/-- Round `t` takes its constant and its schedule word. -/
theorem regsAtRound_succ (hb : block.length = 16) (hr : 16 ≤ alg.rounds) (ht : t < alg.rounds) :
    regsAtRound alg block r (t + 1) =
      alg.round t (alg.k t) (scheduleWord alg block t) (regsAtRound alg block r t) := by
  have hlen := prepMsgSchedule_length alg block hb hr
  have htl : t < (prepMsgSchedule alg block).length := hlen ▸ ht
  rw [regsAtRound, List.take_succ_eq_append_getElem htl, workingLoop_append, List.length_take_of_le htl.le,
    Nat.zero_add, scheduleWord, List.getD_eq_getElem _ _ htl]
  rfl

/-- The block's hash words are the words before it plus the working variables after the last round (R237). -/
theorem slot_processBlock_hs (hl : alg.Local) (hb : block.length = 16) (hr : 16 ≤ alg.rounds) (hi : i < alg.nh) :
    slot (processBlock alg block r).hs i = slot r.hs i + slot (regsAtRound alg block r alg.rounds).wv i := by
  have hi8 : i < 8 := hi.trans_le hl.nh_le
  rw [processBlock, updateHash, slot_overlay_lt _ _ hi8 hi, slot_slotsOf _ i hi8, workingLoop_hs hl, regsAtRound,
    List.take_of_length_le (prepMsgSchedule_length alg block hb hr).le]
  rfl

end

/-! ## The block of a variant -/

/-- One block of hash words under an algorithm: `compress` of a variant that has it. -/
def Algorithm.compressBlock (alg : Algorithm w) (h : Words8 64) (block : Memory) : Words8 64 :=
  lanes (processBlock alg (block.map (Word.take w)) (freshRegs (unlanes w h))).hs

/-- `WV` before round `t` of that block. -/
def blockVars (alg : Algorithm w) (h : Words8 64) (block : Memory) (t : Nat) : Words8 w :=
  (regsAtRound alg (block.map (Word.take w)) (freshRegs (unlanes w h)) t).wv

section
variable {alg : Algorithm w} {v : Variant} {h : Words8 64} {block : Memory} {t i : Nat}

/-- The block's words at the variant's width (R55). -/
theorem scheduleWord_take (hb : block.length = 16) (ht : t < 16) :
    scheduleWord alg (block.map (Word.take w)) t = (block.getD t 0#64).setWidth w := by
  rw [scheduleWord_lt_sixteen (by simpa using hb) ht, ← BitVec.setWidth_zero w 64]
  exact List.getD_map _ _ (Word.take w)

/-- The working variables before the first round are the hash words at the variant's width (R234). -/
theorem slot_blockVars_zero (hl : alg.Local) (hi : i < alg.nh) :
    slot (blockVars alg h block 0) i = (slot h i).setWidth w :=
  (slot_regsAtRound_zero hl hi).trans (slot_unlanes h i (hi.trans_le hl.nh_le))

/-- Round `t`, where its effect on the working variables is `f` (R235, R236). -/
theorem blockVars_succ {f : Nat → BitVec w → BitVec w → Words8 w → Words8 w}
    (hf : ∀ t k x r, (alg.round t k x r).wv = f t k x r.wv) (hb : block.length = 16) (hr : 16 ≤ alg.rounds)
    (ht : t < alg.rounds) : blockVars alg h block (t + 1) =
      f t (alg.k t) (scheduleWord alg (block.map (Word.take w)) t) (blockVars alg h block t) := by
  rw [blockVars, regsAtRound_succ (by simpa using hb) hr ht, hf, blockVars]

/-- A variant's block of hash words, from those before it and the working variables after the last round (R237). -/
theorem slot_compress (hl : alg.Local) (hc : compress v = alg.compressBlock) (hb : block.length = 16)
    (hr : 16 ≤ alg.rounds) (hi : i < alg.nh) : slot (compress v h block) i =
      ((slot h i).setWidth w + slot (blockVars alg h block alg.rounds) i).setWidth 64 := by
  have hi8 : i < 8 := hi.trans_le hl.nh_le
  rw [hc, Algorithm.compressBlock, slot_lanes _ i hi8, slot_processBlock_hs hl (by simpa using hb) hr hi, freshRegs,
    slot_unlanes h i hi8]
  rfl

end

/-! ## SHA-1 (R231, R235) -/

/-- The SHA-1 recurrence in the word operators (R231). -/
theorem scheduleWord_sha1 {block : List (BitVec 32)} {t : Nat} (hb : block.length = 16) (h16 : 16 ≤ t) (ht : t < 80) :
    scheduleWord sha1Algorithm block t =
      (scheduleWord sha1Algorithm block (t - 3) ^^^ scheduleWord sha1Algorithm block (t - 8) ^^^
        scheduleWord sha1Algorithm block (t - 14) ^^^ scheduleWord sha1Algorithm block (t - 16)).rotateLeft 1 := by
  obtain ⟨back, hback, h⟩ := scheduleWord_eq_next (alg := sha1Algorithm) hb h16 ht
  rw [← hback 3 (by omega) (by omega), ← hback 8 (by omega) (by omega), ← hback 14 (by omega) (by omega),
    ← hback 16 (by omega) h16, h, ← opRotl_eq_rotateLeft _ (by decide)]
  rfl

/-- Settles O19: the recurrences of the driver loop, with SHA-1's recurrence and round. -/
theorem sha1BlockFollowsTheRoundRule : Obligations.Sha1BlockFollowsTheRoundRule := by
  intro h block hb
  exact ⟨scheduleWord sha1Algorithm (block.map (Word.take 32)),
    blockVars sha1Algorithm h block,
    fun _ => scheduleWord_take hb,
    fun _ => scheduleWord_sha1 (by simpa using hb),
    fun _ => slot_blockVars_zero sha1Algorithm_local,
    fun _ => blockVars_succ (alg := sha1Algorithm) sha1Round_wv hb (by decide),
    fun _ => slot_compress sha1Algorithm_local rfl hb (by decide)⟩

/-! ## The two SHA-2 families (R232, R233, R236) -/

/-- The SHA-2 recurrence in the word operators (R232, R233). -/
theorem scheduleWord_of_sha2Next {alg : Algorithm w} {s0 s1 : BitVec w → BitVec w} (hnext : alg.next = sha2Next s0 s1)
    {block : List (BitVec w)} {t : Nat} (hb : block.length = 16) (h16 : 16 ≤ t) (ht : t < alg.rounds) :
    scheduleWord alg block t = s1 (scheduleWord alg block (t - 2)) + scheduleWord alg block (t - 7) +
      s0 (scheduleWord alg block (t - 15)) + scheduleWord alg block (t - 16) := by
  obtain ⟨back, hback, h⟩ := scheduleWord_eq_next hb h16 ht
  rw [h, hnext, sha2Next, hback 2 (by omega) (by omega), hback 7 (by omega) (by omega), hback 15 (by omega) (by omega),
    hback 16 (by omega) h16]
  rfl

/-- The algorithm is one of the SHA-2 kind over the given sigmas and round constants (R220). -/
structure Algorithm.IsSha2 (alg : Algorithm w) (big0 big1 small0 small1 : BitVec w → BitVec w) (kt : List Word) :
    Prop where
  nh : alg.nh = 8
  sixteen_le_rounds : 16 ≤ alg.rounds
  next : alg.next = sha2Next small0 small1
  round : alg.round = sha2Round big0 big1
  k : ∀ t, alg.k t = (kt.getD t 0#64).setWidth w

theorem Algorithm.IsSha2.round_wv {alg : Algorithm w} {big0 big1 small0 small1 : BitVec w → BitVec w} {kt : List Word}
    (ha : alg.IsSha2 big0 big1 small0 small1 kt) (t : Nat) (k x : BitVec w) (r : Regs w) :
    (alg.round t k x r).wv = fipsRound2 big0 big1 k x r.wv := by
  rw [ha.round, sha2Round_wv]

/-- One block of a SHA-2 algorithm: its schedule, its rounds and its folding as recurrences. -/
theorem Algorithm.IsSha2.block_recurrences {alg : Algorithm w} {big0 big1 small0 small1 : BitVec w → BitVec w}
    {kt : List Word} (ha : alg.IsSha2 big0 big1 small0 small1 kt) {v : Variant} {h : Words8 64} {block : Memory}
    (hc : compress v = alg.compressBlock) (hb : block.length = 16) :
    ∃ (S : Nat → BitVec w) (V : Nat → Words8 w),
      (∀ t, t < 16 → S t = (block.getD t 0#64).setWidth w) ∧
      (∀ t, 16 ≤ t → t < alg.rounds → S t = small1 (S (t - 2)) + S (t - 7) + small0 (S (t - 15)) + S (t - 16)) ∧
      (∀ i, i < 8 → slot (V 0) i = (slot h i).setWidth w) ∧
      (∀ t, t < alg.rounds → V (t + 1) = fipsRound2 big0 big1 ((kt.getD t 0#64).setWidth w) (S t) (V t)) ∧
      (∀ i, i < 8 → slot (compress v h block) i = ((slot h i).setWidth w + slot (V alg.rounds) i).setWidth 64) := by
  have hl : alg.Local := sha2Round_local ha.round ha.nh
  exact ⟨scheduleWord alg (block.map (Word.take w)),
    blockVars alg h block,
    fun _ => scheduleWord_take hb,
    fun _ => scheduleWord_of_sha2Next ha.next (by simpa using hb),
    fun _ hi => slot_blockVars_zero hl (ha.nh ▸ hi),
    fun t => ha.k t ▸ blockVars_succ ha.round_wv hb ha.sixteen_le_rounds,
    fun _ hi => slot_compress hl hc hb ha.sixteen_le_rounds (ha.nh ▸ hi)⟩

/-- Settles O20: both narrow variants have the SHA-2 recurrences at width 32. -/
theorem sha2NarrowBlockFollowsTheRoundRule : Obligations.Sha2NarrowBlockFollowsTheRoundRule := by
  intro v h block hv hb
  have ha : (sha2Narrow v).IsSha2 bigSigma0_256 bigSigma1_256 smallSigma0_256 smallSigma1_256 Variant.k256 := by
    obtain rfl | rfl := hv <;> exact ⟨rfl, by decide, rfl, rfl, fun _ => rfl⟩
  obtain rfl | rfl := hv <;> exact ha.block_recurrences rfl hb

/-- Settles O21: the four wide variants have the SHA-2 recurrences at width 64, where a word is its own lane. -/
theorem sha2WideBlockFollowsTheRoundRule : Obligations.Sha2WideBlockFollowsTheRoundRule := by
  intro v h block hv hb
  have ha : (sha2Wide v).IsSha2 bigSigma0_512 bigSigma1_512 smallSigma0_512 smallSigma1_512 Variant.k512 ∧
      (sha2Wide v).rounds = 80 ∧ compress v = (sha2Wide v).compressBlock := by
    cases v with
    | sha1 | sha224 | sha256 => exact absurd hv (by decide)
    | sha384 | sha512 | sha512t224 | sha512t256 =>
      exact ⟨⟨rfl, by decide, rfl, rfl, fun _ => rfl⟩, rfl, rfl⟩
  obtain ⟨hsha2, hrounds, hc⟩ := ha
  obtain ⟨S, V, hfirst, hnext, hinit, hround, hfold⟩ := hsha2.block_recurrences hc hb
  simp only [BitVec.setWidth_eq, hrounds] at hfirst hnext hinit hround hfold
  exact ⟨S, V, hfirst, hnext, words8_ext _ _ hinit, hround, hfold⟩

/-! ## Truncating variants (R239) -/

section
variable (alg : Algorithm w) (iv : Words8 w)

theorem extendSchedule_with_iv (n : Nat) (rev : List (BitVec w)) :
    extendSchedule { alg with iv := iv } n rev = extendSchedule alg n rev := by
  induction n generalizing rev with
  | zero => rfl
  | succ n ih => exact ih _

theorem workingLoop_with_iv (t : Nat) (xs : List (BitVec w)) (r : Regs w) :
    workingLoop { alg with iv := iv } t xs r = workingLoop alg t xs r := by
  induction xs generalizing t r with
  | nil => rfl
  | cons x xs ih => exact ih _ _

/-- The initial words have no part in the compression of a block. -/
theorem compressBlock_with_iv : Algorithm.compressBlock { alg with iv := iv } = alg.compressBlock := by
  funext h block
  rw [Algorithm.compressBlock, processBlock, prepMsgSchedule, extendSchedule_with_iv, workingLoop_with_iv]
  rfl

end

/-- The truncating variants, each with the full one (R239). -/
def truncations : List (Variant × Variant) :=
  [(.sha224, .sha256), (.sha384, .sha512), (.sha512t224, .sha512), (.sha512t256, .sha512)]

theorem nh_of_truncation : ∀ p ∈ truncations, p.1.nh = 8 := by decide

/-- A truncating variant has the full one's schedule and rounds (R220). -/
theorem compress_of_truncation : ∀ p ∈ truncations, compress p.1 = compress p.2 := by
  simp only [truncations, List.forall_mem_cons]
  exact ⟨compressBlock_with_iv (sha2Narrow .sha256) (ivSlots .sha224 32),
    compressBlock_with_iv (sha2Wide .sha512) (ivSlots .sha384 64),
    compressBlock_with_iv (sha2Wide .sha512) (ivSlots .sha512t224 64),
    compressBlock_with_iv (sha2Wide .sha512) (ivSlots .sha512t256 64), List.forall_mem_nil _⟩

/-- A message of whole blocks is the fold of the variant's own compression, where it uses all eight words (R185). -/
theorem hashWords_flatten {v : Variant} (hn : v.nh = 8) (blocks : List Memory) (hb : ∀ b ∈ blocks, b.length = 16) :
    hashWords v blocks.flatten = blocks.foldl (compress v) (slotsOf fun i => v.romEntry true i) := by
  induction blocks using List.reverseRecOn with
  | nil =>
    refine words8_ext _ _ fun i hi => ?_
    rw [List.flatten_nil, slot_hashWords_nil v (hn ▸ hi), List.foldl_nil, slot_slotsOf _ i hi]
  | append_singleton blocks block ih =>
    obtain ⟨hblocks, hblock⟩ := List.forall_mem_append.1 hb
    have hwhole : blocks.flatten.length % 16 = 0 := by
      rw [List.length_flatten, List.map_congr_left hblocks]
      simp
    refine words8_ext _ _ fun i hi => ?_
    rw [List.flatten_append, List.flatten_singleton, slot_hashWords_append v (hn ▸ hi) hwhole (by simpa using hblock),
      ih hblocks, List.foldl_append, List.foldl_cons, List.foldl_nil]

/-- Settles O22: the truncating variant's own fold, its compression being the full one's. -/
theorem truncatedVariantRunsTheFullCompression : Obligations.TruncatedVariantRunsTheFullCompression := by
  intro v full h blocks hb
  rw [hashWords_flatten (nh_of_truncation _ h) blocks hb, compress_of_truncation _ h]

end Sys2Proof.Machine
end

section
/-! SUPPORT. The statements of 60_exceptions.md: rejected command words (R273), the refusals of a faulted engine (R284),
and the commands that fault (R271). -/

namespace Sys2Proof.Machine

variable {s : State} {cmd : BitVec 16} {arg : Word} {i : Instr}

/-! ## Command words that are no command (R75, R273) -/

theorem rejectFault_of_decodeCommand {e : Reject} (h : decodeCommand cmd arg = .error e) :
    rejectFault e = .illegalCommand := by
  have hd := decodeCommand_decoding cmd arg
  rw [h] at hd
  cases hd with
  | immediateNotZero | illegalOpcode => rfl

/-- Settles O7: the word does not decode, and each name it is rejected by has code 1. -/
theorem undefinedCommandWordRecordsItsFault : Obligations.UndefinedCommandWordRecordsItsFault := by
  intro s rest cmd arg hf hp hundef
  cases hd : decodeCommand cmd arg with
  | error e =>
    rw [step_of_reject hp hd, takeReject, rejectFault_of_decodeCommand hd]
    exact congrArg Host.Outcome.next (raiseFault_of_noFault _ _ hf)
  | ok i =>
    have hdef := (commandWordDecodesOrIsRejectedByName cmd arg).1.1 ⟨i, hd⟩
    simp only [List.mem_cons, List.not_mem_nil, or_false] at hdef hundef
    rcases hundef with hrow | ⟨hrow, himm⟩
    · omega
    · exact absurd (hdef.resolve_right hrow).2 himm

/-! ## A faulted engine (R284) -/

/-- A word of the command port decodes to a command (R70). -/
theorem isCommand_of_decodeCommand (h : decodeCommand cmd arg = .ok i) : i.isCommand = true := by
  rcases encodeOfDecodeKeepsTheWord.1 cmd arg i h with he | he
  · exact isCommand_of_port_eq_encode (c := ⟨cmd, arg⟩) he.symm
  · exact isCommand_of_port_eq_encode (c := ⟨cmd, 0#64⟩) he.symm

/-- `STATUS_RD` is decoded from the word `0x0005` alone (R72, R73). -/
theorem eq_0005_of_decodeCommand_statusRd (h : decodeCommand cmd arg = .ok .statusRd) : cmd = 0x0005#16 := by
  rcases encodeOfDecodeKeepsTheWord.1 cmd arg _ h with he | he <;> exact (PortWord.command.inj he).1.symm

/-- Settles O8: a word other than `0x0005` is rejected by the decoder, or decodes to a command that is refused. -/
theorem faultedEngineRefusesAllButStatusRead : Obligations.FaultedEngineRefusesAllButStatusRead := by
  intro s cmd arg rest hf hp
  refine ⟨fun hne => ?refused, fun heq => ?status⟩
  case refused =>
    cases hd : decodeCommand cmd arg with
    | error e => exact (step_of_reject hp hd).trans (congrArg _ (raiseFault_of_fault _ _ hf))
    | ok i =>
      have hi : i ≠ .statusRd := by
        rintro rfl
        exact hne (eq_0005_of_decodeCommand_statusRd hd)
      exact (step_of_instr hp hd).trans (exec_of_fault (isCommand_of_decodeCommand hd) hi hf)
  case status =>
    subst heq
    exact (step_of_instr hp rfl).trans (exec_statusRd _)

/-! ## Precise faults (R271) -/

/-- Settles O44: of the outcomes of a command, `faulted` alone sets `FAULT`. -/
theorem faultsArePrecise : Obligations.FaultsArePrecise := by
  intro i s t hi h hs ht
  cases exec_inv h with
  | faulted c _ hm => exact ⟨rfl, hm⟩
  | refused | read | appended | cleared | hashed => simp [hs] at ht
  | answered _ hr | violated hr => simp [hi] at hr

/-- `HASH` on an engine with no fault: the two checks in their order (R283), before any write (R184). -/
theorem exec_hash_of_noFault (hf : s.fault = false) : exec .hash s = .next
    (if s.count = 0 then recordsFault s 2#4
      else if s.count % 16 ≠ 0 then recordsFault s 3#4
      else respond true 0#64 (hashBuffer s)) := by
  rw [exec, execHash, unlessFaulted_of_noFault _ _ hf, raiseFault_of_noFault _ _ hf, raiseFault_of_noFault _ _ hf]
  rfl

/-- Settles O17: the first two branches of `exec_hash_of_noFault`. -/
theorem hashFaultsBeforeAnyWrite : Obligations.HashFaultsBeforeAnyWrite := by
  intro s hf
  rw [exec_hash_of_noFault hf]
  exact ⟨fun h0 => by rw [if_pos h0], fun hpos h16 => by rw [if_neg hpos.ne', if_pos h16]⟩

end Sys2Proof.Machine
end

section
/-! SUPPORT. The statements of 70_reset_and_hazards.md: reset (R300), the slots SHA-1 does not have (R302), and runs of
commands from reset (R312, R314). -/

namespace Sys2Proof.Machine

variable {s t : State} {i : Instr}

/-! ## Every step answers (R312) -/

theorem step_answers (s : State) : ∃ t, step s = .next t := by
  rcases step_cases s with ⟨-, e⟩ | ⟨p, rest, i, -, -, e⟩ | ⟨p, rest, r, -, -, e⟩ | ⟨f, rest, -, e⟩
  · exact ⟨_, e⟩
  · obtain ⟨t, ht, -⟩ := exec_outcome i { s with pending := rest }
    exact ⟨t, e.trans ht⟩
  · exact ⟨_, e⟩
  · exact ⟨_, e⟩

/-- Settles O9: `exec_outcome` for an instruction, `step_answers` for a step. -/
theorem everyStepAnswersANextState : Obligations.EveryStepAnswersANextState := by
  refine ⟨fun i s => ?_, step_answers⟩
  obtain ⟨t, ht, -⟩ := exec_outcome i s
  exact ⟨t, ht⟩

/-! ## Reset (R300) -/

/-- A reset depends on neither the port word in flight nor anything the engine held but its parameters. -/
theorem step_of_reset_eq_resetOf {f : Option PortWord} {rest : List PortEvent} (hp : s.pending = .reset f :: rest) :
    step s = .next { State.resetOf s.variant s.bufCap with pending := rest } := step_of_reset hp

/-- `STATUS` right after reset, as a number: the two fields of the variant (R33, R191). -/
theorem toNat_statusWord_resetOf (v : Variant) {cap : Nat} (hcap : cap ≠ 0) :
    (statusWord (State.resetOf v cap)).toNat = v.ident.toNat * 2 ^ 12 + (if v.w = 64 then 2 ^ 15 else 0) := by
  rw [statusWord_resetOf v hcap]
  cases v <;> rfl

/-- Settles O48: whatever is in flight, a reset step ends in `State.resetOf` with what waits after it. -/
theorem resetLeavesAnEmptyEngine : Obligations.ResetLeavesAnEmptyEngine := by
  intro s f rest hp
  have hany (g) := step_of_reset_eq_resetOf (s := { s with pending := .reset g :: rest }) rfl
  refine ⟨_, step_of_reset_eq_resetOf hp, hany, rfl, fun _ => rfl, rfl, rfl, rfl, rfl, rfl, rfl, rfl, rfl, rfl, rfl,
    rfl, rfl, fun hcap => ?_⟩
  have hcap : s.bufCap ≠ 0 := by omega
  exact ⟨_, exec_statusRd _, toNat_statusWord_resetOf s.variant hcap⟩

theorem inv_resetOf (v : Variant) {cap : Nat} (hcap : Config.bufCapLegal cap = true) : (State.resetOf v cap).Inv where
  capLegal := hcap
  bufWf := wf_nil v cap
  hashFits j hj := by
    have hz : slot (State.resetOf v cap).h j = 0#64 := slot_slotsOf (fun _ => 0#64) j hj
    rw [hz]
    simp [Word.fits]
  hashHeld := rfl
  codeZero := by simp
  codeLegal := by simp
  refusedData _ := rfl

/-- Settles O50: `State.reset` is `State.resetOf` at a legal capacity (log entry 4). -/
theorem resetMeetsTheInvariant : Obligations.ResetMeetsTheInvariant :=
  ⟨fun v _ hcap => inv_resetOf v hcap, inv_resetOf Config.resetVariant (by decide)⟩

/-! ## The slots past `NH` (R302) -/

/-- From `s` to `t` no slot of `H` or `WV` from `n` on comes to hold a value, and no such hash word is written. -/
structure State.KeepsSlotsFrom (n : Nat) (s t : State) : Prop where
  hHeld : t.hHeld ≤ max s.hHeld n
  wvHeld : t.hidden.wvHeld ≤ max s.hidden.wvHeld n
  slots : ∀ j, n ≤ j → j < 8 → slot t.h j = slot s.h j

theorem keepsSlotsFrom_of_eq {n : Nat} (hh : t.h = s.h) (hheld : t.hHeld = s.hHeld) (hhid : t.hidden = s.hidden) :
    s.KeepsSlotsFrom n t where
  hHeld := hheld ▸ le_max_left _ _
  wvHeld := hhid ▸ le_max_left _ _
  slots _ _ _ := by rw [hh]

theorem hashBuffer_wvHeld (s : State) : (hashBuffer s).hidden.wvHeld = max s.hidden.wvHeld s.variant.nh := by
  obtain ⟨alg, -, hn, hf⟩ := exists_algorithm s.variant
  rw [hashBuffer, hf, ← hn]
  rfl

theorem hashBuffer_keepsSlotsFrom (s : State) : s.KeepsSlotsFrom s.variant.nh (hashBuffer s) where
  hHeld := (hashBuffer_hHeld s).le
  wvHeld := (hashBuffer_wvHeld s).le
  slots j hn hj := slot_hashBuffer_ge s j hj hn

/-- `HASH` alone writes hash words or working variables, and it writes the first `NH`. -/
theorem ExecOutcome.keepsSlotsFrom (h : ExecOutcome s i t) : s.KeepsSlotsFrom s.variant.nh t := by
  cases h with
  | hashed => exact { hashBuffer_keepsSlotsFrom s with }
  | refused | faulted | read | appended | cleared | answered => exact keepsSlotsFrom_of_eq rfl rfl rfl
  | violated => exact keepsSlotsFrom_of_eq (by simp) (by simp) (by simp)

theorem step_keepsSlotsFrom (hstep : step s = .next t) (hreset : ∀ f rest, s.pending ≠ .reset f :: rest) :
    s.KeepsSlotsFrom s.variant.nh t := by
  rcases step_cases s with ⟨-, e⟩ | ⟨p, rest, i, -, -, e⟩ | ⟨p, rest, r, -, -, e⟩ | ⟨f, rest, hp, -⟩
  · cases e.symm.trans hstep
    exact keepsSlotsFrom_of_eq rfl rfl rfl
  · exact { (exec_inv (e.symm.trans hstep)).keepsSlotsFrom with }
  · cases e.symm.trans hstep
    exact keepsSlotsFrom_of_eq (raiseFault_h _ _) (raiseFault_hHeld _ _) (raiseFault_hidden _ _)
  · exact absurd hp (hreset f rest)

/-- Settles O51: a reset leaves no slot held, and any other step keeps the slots from `NH = 5` on. -/
theorem sha1NeverWritesTheUpperSlots : Obligations.Sha1NeverWritesTheUpperSlots := by
  intro s t hv hh hw hstep
  by_cases hreset : ∃ f rest, s.pending = .reset f :: rest
  · obtain ⟨f, rest, hp⟩ := hreset
    cases (step_of_reset hp).symm.trans hstep
    exact ⟨Nat.zero_le 5, Nat.zero_le 5, fun hn => absurd hp (hn f rest)⟩
  · have hk := step_keepsSlotsFrom hstep (by simpa using hreset)
    rw [hv, show Variant.sha1.nh = 5 from rfl] at hk
    exact ⟨hk.hHeld.trans (max_le hh le_rfl), hk.wvHeld.trans (max_le hw le_rfl), fun _ => hk.slots⟩

/-! ## Runs of commands (R314) -/

theorem runCommands_answers (cs : List Command) (s : State) :
    ∃ rs t, runCommands cs s = some (rs, t) ∧ rs.length = cs.length := by
  induction cs generalizing s with
  | nil => exact ⟨[], s, rfl, rfl⟩
  | cons c cs ih =>
    obtain ⟨u, hu⟩ := step_answers (State.issue c.port s)
    obtain ⟨rs, t, hrun, hlen⟩ := ih u
    refine ⟨responseOf u :: rs, t, ?_, congrArg (· + 1) hlen⟩
    rw [runCommands_cons hu, hrun]
    rfl

theorem succeeded_iff (s : State) : succeeded s = true ↔ s.fault = false := by simp [succeeded]

/-- The response of a faulted engine to a command word (R284). -/
def faultedResponse (s : State) (c : Command) : Response :=
  if c.cmd = 0x0005#16 then ⟨true, statusWord s⟩ else ⟨false, 0#64⟩

/-- A faulted engine writes the response alone (R284). -/
theorem step_issue_of_fault (hf : s.fault = true) (c : Command) :
    step (State.issue c.port s) = .next (respond (faultedResponse s c).ok (faultedResponse s c).data s) := by
  obtain ⟨hrefuse, hstatus⟩ :=
    faultedEngineRefusesAllButStatusRead (State.issue c.port s) c.cmd c.arg s.pending hf rfl
  by_cases hc : c.cmd = 0x0005#16
  · rw [faultedResponse, if_pos hc]
    exact hstatus hc
  · rw [faultedResponse, if_neg hc]
    exact hrefuse hc

/-- `STATUS` shows nothing of the response registers (R33), so a response has no part in the next one. -/
theorem faultedResponse_respond (ok : Bool) (d : Word) (s : State) :
    faultedResponse (respond ok d s) = faultedResponse s := rfl

theorem runCommands_of_fault (hf : s.fault = true) (cs : List Command) :
    ∃ t, runCommands cs s = some (cs.map (faultedResponse s), t) ∧ t.fault = true := by
  induction cs generalizing s with
  | nil => exact ⟨s, rfl, hf⟩
  | cons c cs ih =>
    obtain ⟨t, hrun, ht⟩ := ih (s := respond (faultedResponse s c).ok (faultedResponse s c).data s) hf
    refine ⟨t, ?_, ht⟩
    rw [runCommands_cons (step_issue_of_fault hf c), hrun, faultedResponse_respond]
    rfl

/-- Settles O55: runs answer, and the part after a faulted one runs as `runCommands_of_fault` says. -/
theorem everyRunHasItsOutcome : Obligations.EveryRunHasItsOutcome := by
  refine ⟨fun v cap cs => ?_, fun v cap cs ds rs s hrun hf => ?_⟩
  · obtain ⟨rs, t, hrun, hlen⟩ := runCommands_answers cs (State.resetOf v cap)
    exact ⟨rs, t, hrun, hlen, succeeded_iff t⟩
  · obtain ⟨t, hlater, ht⟩ := runCommands_of_fault hf ds
    refine ⟨ds.map (faultedResponse s), t, ?_, List.length_map _, by simp [succeeded, ht], fun k d q hd hq => ?_⟩
    · rw [runOutcome, runCommands_append hrun, hlater]
      rfl
    · rw [List.getElem?_map, hd] at hq
      obtain rfl : faultedResponse s d = q := Option.some.inj hq
      exact ⟨fun hc => if_neg hc, fun hc => if_pos hc⟩

end Sys2Proof.Machine
end

section
/-! SUPPORT. The round trip of the encoding (30_encoding.md, R71 to R81). -/

namespace Sys2Proof.Machine

/-- Settles O1, by cases on the instruction (`decode_encode`): the decoder reads back the opcode and the immediate, or
`BOP` and `WSEL`, from the fields the encoder joined, and every operand from the lane it was put on. -/
theorem decodeOfEncodeIsTheInstruction : Obligations.DecodeOfEncodeIsTheInstruction := decode_encode

end Sys2Proof.Machine
end
